-- ==== Sys2Proof/Word.lean ====
section
/-! DEFINITION. The word types of CZ-FA (spec/00_scope.md R10, R11; spec/30_encoding.md R70): bytes, byte
sequences, the 16-bit command word and the 32-bit VALUE word. -/

namespace Sys2Proof

/-- A byte: 8 bits, bit 0 least significant (R10). -/
abbrev Byte := BitVec 8

/-- A byte sequence (R11). -/
abbrev Bytes := List Byte

/-- The 16-bit command word CMD (R70, R76). -/
abbrev CmdWord := BitVec 16

/-- The 32-bit VALUE and RES_VALUE words: numbers, with no byte order (R56). -/
abbrev Value := BitVec 32

end Sys2Proof
end

