-- ==== Sys2Proof/Syntax.lean ====
section
/-! DEFINITION. The commands of CZ-FA: the command triple of the port (spec/30_encoding.md R70) and `Instr`, one
constructor for each row of spec/opcode_table.json. A constructor carries the operands its rule names: the IMM
operand where the row has one, the ARG bytes and the VALUE word. A channel the rule does not name is ignored (R70)
and is no field. -/

namespace Sys2Proof

/-- A command as the host presents it on the command port: `(CMD, ARG, VALUE)` (R70). -/
structure Command where
  cmd   : CmdWord
  arg   : Bytes
  value : Value
deriving DecidableEq, Repr

/-- The commands of CZ-FA, in the order of the opcode map (R72). -/
inductive Instr where
  /-- NOP (R110). -/
  | nop
  /-- APPEND: ARG is the bytes to add (R111). -/
  | append (arg : Bytes)
  /-- PROCESS: one frame-assembler step, `c = 0` (R140). -/
  | process
  /-- PROCESS.NC: one frame-assembler step with `no_clear`, `c = 1` (R140). -/
  | processNc
  /-- CONSUME n: `n = IMM` (R112). -/
  | consume (n : Byte)
  /-- RESET_BUF (R113). -/
  | resetBuf
  /-- CRC8: ARG is the bytes, VALUE is `start ‖ length` (R133). -/
  | crc8 (arg : Bytes) (value : Value)
  /-- DECODE.TEMP16 (R183). -/
  | decodeTemp16 (arg : Bytes)
  /-- DECODE.TEMP8 (R184). -/
  | decodeTemp8 (arg : Bytes)
  /-- DECODE.FREQ16 (R185). -/
  | decodeFreq16 (arg : Bytes)
  /-- DECODE.PERCENT (R186). -/
  | decodePercent (arg : Bytes)
  /-- DECODE.TIME_HM (R187). -/
  | decodeTimeHm (arg : Bytes)
  /-- DECODE.DATE_DMY (R188). -/
  | decodeDateDmy (arg : Bytes)
  /-- DECODE.FLAG (R189). -/
  | decodeFlag (arg : Bytes)
  /-- DECODE.ENUM: `d = IMM` is the largest legal enumerator (R190). -/
  | decodeEnum (d : Byte) (arg : Bytes)
  /-- DECODE.DIGITS: `d = IMM` is the declared length (R191). -/
  | decodeDigits (d : Byte) (arg : Bytes)
  /-- DECODE.ALARM_CLEAR (R192). -/
  | decodeAlarmClear (arg : Bytes)
  /-- DECODE.GENERIC16 (R193). -/
  | decodeGeneric16 (arg : Bytes)
  /-- DECODE.EMPTY (R194). -/
  | decodeEmpty (arg : Bytes)
  /-- ENCODE.TEMP16 (R212). -/
  | encodeTemp16 (value : Value)
  /-- ENCODE.TEMP8 (R213). -/
  | encodeTemp8 (value : Value)
  /-- ENCODE.FREQ16 (R214). -/
  | encodeFreq16 (value : Value)
  /-- ENCODE.PERCENT (R215). -/
  | encodePercent (value : Value)
  /-- ENCODE.TIME_HM (R216). -/
  | encodeTimeHm (value : Value)
  /-- ENCODE.DATE_DMY (R217). -/
  | encodeDateDmy (value : Value)
  /-- ENCODE.FLAG (R218). -/
  | encodeFlag (value : Value)
  /-- ENCODE.ENUM: `d = IMM` (R219). -/
  | encodeEnum (d : Byte) (value : Value)
  /-- ENCODE.DIGITS: `d = IMM`; ARG is the value bytes, VALUE is ignored (R220). -/
  | encodeDigits (d : Byte) (arg : Bytes)
  /-- ENCODE.ALARM_CLEAR: no operand (R221). -/
  | encodeAlarmClear
  /-- ENCODE.GENERIC16 (R222). -/
  | encodeGeneric16 (value : Value)
  /-- ENCODE.EMPTY: no operand (R223). -/
  | encodeEmpty
  /-- SUBMIT.READ: ARG is the register id and the DIGITS tail (R240, R243). -/
  | submitRead (arg : Bytes) (value : Value)
  /-- SUBMIT.WRITE: ARG is the register id and the DIGITS tail (R240, R244). -/
  | submitWrite (arg : Bytes) (value : Value)
  /-- SET_ADDR.HP: ARG is the 4 address bytes (R255). -/
  | setAddrHp (arg : Bytes)
  /-- SET_ADDR.CTRL: ARG is the 4 address bytes (R256). -/
  | setAddrCtrl (arg : Bytes)
  /-- SET_GRAB.OFF (R257). -/
  | setGrabOff
  /-- SET_GRAB.ON: VALUE is the declared capacity (R258). -/
  | setGrabOn (value : Value)
  /-- READ_STATUS i: `i = IMM` (R259). -/
  | readStatus (i : Byte)
  /-- READ_GRAB (R260). -/
  | readGrab
  /-- READ_STATE (R261). -/
  | readState
deriving DecidableEq, Repr

end Sys2Proof
end

