-- ==== Sys2Proof/WellFormed.lean ====
section
/-! DEFINITION. When a command is one the port can carry: its ARG is at most 65535 bytes long
(spec/30_encoding.md R70). The IMM operands (`n`, `d`, `i`) are 8-bit and the VALUE word 32-bit by their types, so
every value of them is well formed. The checks of a configuration (R98) stand in Machine/Table.lean. -/

namespace Sys2Proof

/-- The longest ARG the command port carries (R70). -/
def maxArgLen : Nat := 65535

/-- The ARG operand of an instruction, `[]` where its rule names none. -/
def Instr.argOf : Instr → Bytes
  | .nop => []
  | .append arg => arg
  | .process => []
  | .processNc => []
  | .consume _ => []
  | .resetBuf => []
  | .crc8 arg _ => arg
  | .decodeTemp16 arg => arg
  | .decodeTemp8 arg => arg
  | .decodeFreq16 arg => arg
  | .decodePercent arg => arg
  | .decodeTimeHm arg => arg
  | .decodeDateDmy arg => arg
  | .decodeFlag arg => arg
  | .decodeEnum _ arg => arg
  | .decodeDigits _ arg => arg
  | .decodeAlarmClear arg => arg
  | .decodeGeneric16 arg => arg
  | .decodeEmpty arg => arg
  | .encodeTemp16 _ => []
  | .encodeTemp8 _ => []
  | .encodeFreq16 _ => []
  | .encodePercent _ => []
  | .encodeTimeHm _ => []
  | .encodeDateDmy _ => []
  | .encodeFlag _ => []
  | .encodeEnum _ _ => []
  | .encodeDigits _ arg => arg
  | .encodeAlarmClear => []
  | .encodeGeneric16 _ => []
  | .encodeEmpty => []
  | .submitRead arg _ => arg
  | .submitWrite arg _ => arg
  | .setAddrHp arg => arg
  | .setAddrCtrl arg => arg
  | .setGrabOff => []
  | .setGrabOn _ => []
  | .readStatus _ => []
  | .readGrab => []
  | .readState => []

/-- An instruction the command port can carry: its ARG has at most 65535 bytes (R70). -/
abbrev Instr.WellFormed (i : Instr) : Prop := i.argOf.length ≤ maxArgLen

end Sys2Proof
end

