-- ==== Sys2Proof/Decode.lean ====
section
/-! DEFINITION. The decoder and the encoder of the command port, written from spec/30_encoding.md R71, R72, R74 and
R78, and the opcode table of spec/opcode_table.json as mask and pattern. -/

namespace Sys2Proof

/-! ### The fields of a command word (R71) -/

/-- `OPC = CMD[15:12]` (R71). -/
def opcOf (cmd : CmdWord) : BitVec 4 := cmd.extractLsb' 12 4

/-- `SEL = CMD[11:8]` (R71). -/
def selOf (cmd : CmdWord) : BitVec 4 := cmd.extractLsb' 8 4

/-- `IMM = CMD[7:0]` (R71). -/
def immOf (cmd : CmdWord) : Byte := cmd.extractLsb' 0 8

/-- `CMD = OPC ‖ SEL ‖ IMM` (R78). -/
def cmdOf (opc sel : BitVec 4) (imm : Byte) : CmdWord := (opc ++ sel) ++ imm

/-! ### The decoder (R72, R74) -/

/-- Why the decoder gives no instruction. -/
inductive Reject where
  /-- The command word matches no row of the opcode table: the command ends with ILLEGAL_CMD (R74, R283). -/
  | illegalCmd
  /-- ARG is longer than 65535 bytes, which no command of the port is (R70). -/
  | argTooLong
deriving DecidableEq, Repr

/-- What the decoder answers: an instruction, or a rejection by name. -/
inductive Decoded where
  | instr (i : Instr)
  | rejected (why : Reject)
deriving DecidableEq, Repr

/-- A row whose IMM must be zero (R72): any other IMM is illegal (R74). -/
def needZeroImm (imm : Byte) (i : Instr) : Decoded :=
  if imm = 0 then .instr i else .rejected .illegalCmd

/-- PROCESS: `IMM = 0000000c`, and `IMM[7:1] ≠ 0` is illegal (R72, R74). -/
def decodeProcess (imm : Byte) : Decoded :=
  if imm = 0 then .instr .process
  else if imm = 1 then .instr .processNc
  else .rejected .illegalCmd

/-- OPC 0x6: SEL selects the kind; IMM is `d` for ENUM and DIGITS and zero otherwise (R72, R182). -/
def decodeDecode (sel : Nat) (imm : Byte) (arg : Bytes) : Decoded :=
  match sel with
  | 0x0 => needZeroImm imm (.decodeTemp16 arg)
  | 0x1 => needZeroImm imm (.decodeTemp8 arg)
  | 0x2 => needZeroImm imm (.decodeFreq16 arg)
  | 0x3 => needZeroImm imm (.decodePercent arg)
  | 0x4 => needZeroImm imm (.decodeTimeHm arg)
  | 0x5 => needZeroImm imm (.decodeDateDmy arg)
  | 0x6 => needZeroImm imm (.decodeFlag arg)
  | 0x7 => .instr (.decodeEnum imm arg)
  | 0x8 => .instr (.decodeDigits imm arg)
  | 0x9 => needZeroImm imm (.decodeAlarmClear arg)
  | 0xA => needZeroImm imm (.decodeGeneric16 arg)
  | 0xB => needZeroImm imm (.decodeEmpty arg)
  | _ => .rejected .illegalCmd

/-- OPC 0x7: SEL selects the kind; IMM is `d` for ENUM and DIGITS and zero otherwise (R72, R211). -/
def decodeEncode (sel : Nat) (imm : Byte) (arg : Bytes) (value : Value) : Decoded :=
  match sel with
  | 0x0 => needZeroImm imm (.encodeTemp16 value)
  | 0x1 => needZeroImm imm (.encodeTemp8 value)
  | 0x2 => needZeroImm imm (.encodeFreq16 value)
  | 0x3 => needZeroImm imm (.encodePercent value)
  | 0x4 => needZeroImm imm (.encodeTimeHm value)
  | 0x5 => needZeroImm imm (.encodeDateDmy value)
  | 0x6 => needZeroImm imm (.encodeFlag value)
  | 0x7 => .instr (.encodeEnum imm value)
  | 0x8 => .instr (.encodeDigits imm arg)
  | 0x9 => needZeroImm imm .encodeAlarmClear
  | 0xA => needZeroImm imm (.encodeGeneric16 value)
  | 0xB => needZeroImm imm .encodeEmpty
  | _ => .rejected .illegalCmd

/-- A format whose SEL is 0 or 1 and whose IMM is zero: SUBMIT, SET_ADDR, SET_GRAB (R72). -/
def decodePair (sel : Nat) (imm : Byte) (i₀ i₁ : Instr) : Decoded :=
  match sel with
  | 0x0 => needZeroImm imm i₀
  | 0x1 => needZeroImm imm i₁
  | _ => .rejected .illegalCmd

/-- A format whose SEL must be zero (R72). -/
def needZeroSel (sel : Nat) (d : Decoded) : Decoded :=
  if sel = 0 then d else .rejected .illegalCmd

/-- The opcode map of R72 over the three fields; what it does not list is illegal (R74, R75). -/
def decodeFields (opc sel : Nat) (imm : Byte) (arg : Bytes) (value : Value) : Decoded :=
  match opc with
  | 0x0 => needZeroSel sel (needZeroImm imm .nop)
  | 0x1 => needZeroSel sel (needZeroImm imm (.append arg))
  | 0x2 => needZeroSel sel (decodeProcess imm)
  | 0x3 => needZeroSel sel (.instr (.consume imm))
  | 0x4 => needZeroSel sel (needZeroImm imm .resetBuf)
  | 0x5 => needZeroSel sel (needZeroImm imm (.crc8 arg value))
  | 0x6 => decodeDecode sel imm arg
  | 0x7 => decodeEncode sel imm arg value
  | 0x8 => decodePair sel imm (.submitRead arg value) (.submitWrite arg value)
  | 0x9 => decodePair sel imm (.setAddrHp arg) (.setAddrCtrl arg)
  | 0xA => decodePair sel imm .setGrabOff (.setGrabOn value)
  | 0xB => needZeroSel sel (.instr (.readStatus imm))
  | 0xC => needZeroSel sel (needZeroImm imm .readGrab)
  | 0xD => needZeroSel sel (needZeroImm imm .readState)
  | _ => .rejected .illegalCmd

/-- The decoder, total on every command (R70, R72, R74). -/
def decode (c : Command) : Decoded :=
  if c.arg.length ≤ maxArgLen then
    decodeFields (opcOf c.cmd).toNat (selOf c.cmd).toNat (immOf c.cmd) c.arg c.value
  else .rejected .argTooLong

/-- The instruction in an opcode-table word of `nbits` bits whose value is `w`, with the operand channels empty and
zero. Every row of the table is 16 bits; `none` where the decoder refuses. -/
def decodeTableWord (nbits w : Nat) : Option Instr :=
  if nbits ≤ 16 ∧ w < 2 ^ nbits then
    match decode { cmd := BitVec.ofNat 16 w, arg := [], value := 0 } with
    | .instr i => some i
    | .rejected _ => none
  else none

/-! ### The encoder (R78) -/

/-- The command word of an instruction (R78). -/
def Instr.word : Instr → CmdWord
  | .nop => cmdOf 0x0 0x0 0
  | .append _ => cmdOf 0x1 0x0 0
  | .process => cmdOf 0x2 0x0 0
  | .processNc => cmdOf 0x2 0x0 1
  | .consume n => cmdOf 0x3 0x0 n
  | .resetBuf => cmdOf 0x4 0x0 0
  | .crc8 _ _ => cmdOf 0x5 0x0 0
  | .decodeTemp16 _ => cmdOf 0x6 0x0 0
  | .decodeTemp8 _ => cmdOf 0x6 0x1 0
  | .decodeFreq16 _ => cmdOf 0x6 0x2 0
  | .decodePercent _ => cmdOf 0x6 0x3 0
  | .decodeTimeHm _ => cmdOf 0x6 0x4 0
  | .decodeDateDmy _ => cmdOf 0x6 0x5 0
  | .decodeFlag _ => cmdOf 0x6 0x6 0
  | .decodeEnum d _ => cmdOf 0x6 0x7 d
  | .decodeDigits d _ => cmdOf 0x6 0x8 d
  | .decodeAlarmClear _ => cmdOf 0x6 0x9 0
  | .decodeGeneric16 _ => cmdOf 0x6 0xA 0
  | .decodeEmpty _ => cmdOf 0x6 0xB 0
  | .encodeTemp16 _ => cmdOf 0x7 0x0 0
  | .encodeTemp8 _ => cmdOf 0x7 0x1 0
  | .encodeFreq16 _ => cmdOf 0x7 0x2 0
  | .encodePercent _ => cmdOf 0x7 0x3 0
  | .encodeTimeHm _ => cmdOf 0x7 0x4 0
  | .encodeDateDmy _ => cmdOf 0x7 0x5 0
  | .encodeFlag _ => cmdOf 0x7 0x6 0
  | .encodeEnum d _ => cmdOf 0x7 0x7 d
  | .encodeDigits d _ => cmdOf 0x7 0x8 d
  | .encodeAlarmClear => cmdOf 0x7 0x9 0
  | .encodeGeneric16 _ => cmdOf 0x7 0xA 0
  | .encodeEmpty => cmdOf 0x7 0xB 0
  | .submitRead _ _ => cmdOf 0x8 0x0 0
  | .submitWrite _ _ => cmdOf 0x8 0x1 0
  | .setAddrHp _ => cmdOf 0x9 0x0 0
  | .setAddrCtrl _ => cmdOf 0x9 0x1 0
  | .setGrabOff => cmdOf 0xA 0x0 0
  | .setGrabOn _ => cmdOf 0xA 0x1 0
  | .readStatus i => cmdOf 0xB 0x0 i
  | .readGrab => cmdOf 0xC 0x0 0
  | .readState => cmdOf 0xD 0x0 0

/-- The VALUE operand of an instruction, 0 where its rule names none. -/
def Instr.valueOf : Instr → Value
  | .crc8 _ value => value
  | .encodeTemp16 value => value
  | .encodeTemp8 value => value
  | .encodeFreq16 value => value
  | .encodePercent value => value
  | .encodeTimeHm value => value
  | .encodeDateDmy value => value
  | .encodeFlag value => value
  | .encodeEnum _ value => value
  | .encodeGeneric16 value => value
  | .submitRead _ value => value
  | .submitWrite _ value => value
  | .setGrabOn value => value
  | .nop | .append _ | .process | .processNc | .consume _ | .resetBuf => 0
  | .decodeTemp16 _ | .decodeTemp8 _ | .decodeFreq16 _ | .decodePercent _ | .decodeTimeHm _ | .decodeDateDmy _ => 0
  | .decodeFlag _ | .decodeEnum _ _ | .decodeDigits _ _ | .decodeAlarmClear _ | .decodeGeneric16 _ => 0
  | .decodeEmpty _ | .encodeDigits _ _ | .encodeAlarmClear | .encodeEmpty => 0
  | .setAddrHp _ | .setAddrCtrl _ | .setGrabOff | .readStatus _ | .readGrab | .readState => 0

/-- The command that carries an instruction: its word (R78), its ARG and its VALUE (R70); a channel the instruction
does not name is empty or zero. -/
def encode (i : Instr) : Command := { cmd := i.word, arg := i.argOf, value := i.valueOf }

/-! ### The opcode table (R72, R74) -/

/-- One row of spec/opcode_table.json: a word matches it when `word AND mask = pattern`. -/
structure OpcodeRow where
  mnemonic : String
  pattern  : CmdWord
  mask     : CmdWord
deriving DecidableEq, Repr

/-- A command word matches a row (R74). -/
def OpcodeRow.matchesWord (r : OpcodeRow) (cmd : CmdWord) : Bool := cmd &&& r.mask == r.pattern

/-- The rows of OPC 0x0 to 0x5 (R72). -/
def opcodeRowsBuffer : List OpcodeRow :=
  [ ⟨"NOP", 0x0000, 0xFFFF⟩, ⟨"APPEND", 0x1000, 0xFFFF⟩, ⟨"PROCESS", 0x2000, 0xFFFF⟩,
    ⟨"PROCESS.NC", 0x2001, 0xFFFF⟩, ⟨"CONSUME", 0x3000, 0xFF00⟩, ⟨"RESET_BUF", 0x4000, 0xFFFF⟩,
    ⟨"CRC8", 0x5000, 0xFFFF⟩ ]

/-- The rows of OPC 0x6 (R72). -/
def opcodeRowsDecode : List OpcodeRow :=
  [ ⟨"DECODE.TEMP16", 0x6000, 0xFFFF⟩, ⟨"DECODE.TEMP8", 0x6100, 0xFFFF⟩, ⟨"DECODE.FREQ16", 0x6200, 0xFFFF⟩,
    ⟨"DECODE.PERCENT", 0x6300, 0xFFFF⟩, ⟨"DECODE.TIME_HM", 0x6400, 0xFFFF⟩, ⟨"DECODE.DATE_DMY", 0x6500, 0xFFFF⟩,
    ⟨"DECODE.FLAG", 0x6600, 0xFFFF⟩, ⟨"DECODE.ENUM", 0x6700, 0xFF00⟩, ⟨"DECODE.DIGITS", 0x6800, 0xFF00⟩,
    ⟨"DECODE.ALARM_CLEAR", 0x6900, 0xFFFF⟩, ⟨"DECODE.GENERIC16", 0x6A00, 0xFFFF⟩, ⟨"DECODE.EMPTY", 0x6B00, 0xFFFF⟩ ]

/-- The rows of OPC 0x7 (R72). -/
def opcodeRowsEncode : List OpcodeRow :=
  [ ⟨"ENCODE.TEMP16", 0x7000, 0xFFFF⟩, ⟨"ENCODE.TEMP8", 0x7100, 0xFFFF⟩, ⟨"ENCODE.FREQ16", 0x7200, 0xFFFF⟩,
    ⟨"ENCODE.PERCENT", 0x7300, 0xFFFF⟩, ⟨"ENCODE.TIME_HM", 0x7400, 0xFFFF⟩, ⟨"ENCODE.DATE_DMY", 0x7500, 0xFFFF⟩,
    ⟨"ENCODE.FLAG", 0x7600, 0xFFFF⟩, ⟨"ENCODE.ENUM", 0x7700, 0xFF00⟩, ⟨"ENCODE.DIGITS", 0x7800, 0xFF00⟩,
    ⟨"ENCODE.ALARM_CLEAR", 0x7900, 0xFFFF⟩, ⟨"ENCODE.GENERIC16", 0x7A00, 0xFFFF⟩, ⟨"ENCODE.EMPTY", 0x7B00, 0xFFFF⟩ ]

/-- The rows of OPC 0x8 to 0xD (R72). -/
def opcodeRowsHost : List OpcodeRow :=
  [ ⟨"SUBMIT.READ", 0x8000, 0xFFFF⟩, ⟨"SUBMIT.WRITE", 0x8100, 0xFFFF⟩, ⟨"SET_ADDR.HP", 0x9000, 0xFFFF⟩,
    ⟨"SET_ADDR.CTRL", 0x9100, 0xFFFF⟩, ⟨"SET_GRAB.OFF", 0xA000, 0xFFFF⟩, ⟨"SET_GRAB.ON", 0xA100, 0xFFFF⟩,
    ⟨"READ_STATUS", 0xB000, 0xFF00⟩, ⟨"READ_GRAB", 0xC000, 0xFFFF⟩, ⟨"READ_STATE", 0xD000, 0xFFFF⟩ ]

/-- The 40 rows of spec/opcode_table.json. -/
def opcodeTable : List OpcodeRow :=
  opcodeRowsBuffer ++ opcodeRowsDecode ++ opcodeRowsEncode ++ opcodeRowsHost

/-- The mnemonic of an instruction, as the table spells it. -/
def Instr.mnemonic : Instr → String
  | .nop => "NOP"
  | .append _ => "APPEND"
  | .process => "PROCESS"
  | .processNc => "PROCESS.NC"
  | .consume _ => "CONSUME"
  | .resetBuf => "RESET_BUF"
  | .crc8 _ _ => "CRC8"
  | .decodeTemp16 _ => "DECODE.TEMP16"
  | .decodeTemp8 _ => "DECODE.TEMP8"
  | .decodeFreq16 _ => "DECODE.FREQ16"
  | .decodePercent _ => "DECODE.PERCENT"
  | .decodeTimeHm _ => "DECODE.TIME_HM"
  | .decodeDateDmy _ => "DECODE.DATE_DMY"
  | .decodeFlag _ => "DECODE.FLAG"
  | .decodeEnum _ _ => "DECODE.ENUM"
  | .decodeDigits _ _ => "DECODE.DIGITS"
  | .decodeAlarmClear _ => "DECODE.ALARM_CLEAR"
  | .decodeGeneric16 _ => "DECODE.GENERIC16"
  | .decodeEmpty _ => "DECODE.EMPTY"
  | .encodeTemp16 _ => "ENCODE.TEMP16"
  | .encodeTemp8 _ => "ENCODE.TEMP8"
  | .encodeFreq16 _ => "ENCODE.FREQ16"
  | .encodePercent _ => "ENCODE.PERCENT"
  | .encodeTimeHm _ => "ENCODE.TIME_HM"
  | .encodeDateDmy _ => "ENCODE.DATE_DMY"
  | .encodeFlag _ => "ENCODE.FLAG"
  | .encodeEnum _ _ => "ENCODE.ENUM"
  | .encodeDigits _ _ => "ENCODE.DIGITS"
  | .encodeAlarmClear => "ENCODE.ALARM_CLEAR"
  | .encodeGeneric16 _ => "ENCODE.GENERIC16"
  | .encodeEmpty => "ENCODE.EMPTY"
  | .submitRead _ _ => "SUBMIT.READ"
  | .submitWrite _ _ => "SUBMIT.WRITE"
  | .setAddrHp _ => "SET_ADDR.HP"
  | .setAddrCtrl _ => "SET_ADDR.CTRL"
  | .setGrabOff => "SET_GRAB.OFF"
  | .setGrabOn _ => "SET_GRAB.ON"
  | .readStatus _ => "READ_STATUS"
  | .readGrab => "READ_GRAB"
  | .readState => "READ_STATE"

end Sys2Proof
end

