-- ==== Sys2Proof/Config.lean ====
section
/-! DEFINITION. What an instance of CZ-FA fixes and no command changes (spec/10_state.md R37): the parameters of
spec/00_scope.md R8, the codec kinds of spec/30_encoding.md R90, the register descriptors of R96, and the reference
configuration of R8 with the reference register table of spec/92_eei_decisions.md D29. -/

namespace Sys2Proof

/-- The codec kinds (R90). The reserved kinds 0xC to 0xF are no kind: no command and no table can name one
(R74, R98 WF-KIND). -/
inductive Kind where
  | temp16 | temp8 | freq16 | percent | timeHm | dateDmy | flag | enum | digits | alarmClear | generic16 | empty
deriving DecidableEq, Repr

/-- WORD_ORDER: the byte order of 16-bit payload fields (R55). -/
inductive WordOrder where
  | le | be
deriving DecidableEq, Repr

/-- A register descriptor (R96). -/
structure Descriptor where
  /-- The 9-byte register id. -/
  regId       : Bytes
  /-- Informational (R96). -/
  craftName   : String
  /-- Informational (R96). -/
  displayName : String
  /-- The behaviour of a read query. -/
  behQr       : Option Kind
  /-- The behaviour of a write query. -/
  behQw       : Option Kind
  /-- The behaviour of a reply to a read. -/
  behRr       : Option Kind
  /-- The behaviour of a reply to a write. -/
  behRw       : Option Kind
  /-- The kind parameter `d` (R94). -/
  dparam      : Byte
  /-- The encode range of SUBMIT.WRITE (R224). -/
  range       : Option (Int × Int)
  /-- The status snapshot field the register feeds (R152). -/
  statusField : Option Nat
deriving DecidableEq, Repr

/-- The parameters of one CZ-FA instance (R8). -/
structure Config where
  /-- CAP: the incoming buffer's capacity in bytes. -/
  cap            : Nat
  /-- DIR_QUERY. -/
  dirQuery       : Byte
  /-- DIR_REPLY. -/
  dirReply       : Byte
  /-- OP_READ. -/
  opRead         : Byte
  /-- OP_WRITE. -/
  opWrite        : Byte
  /-- CRC_POLY. -/
  crcPoly        : Byte
  /-- CRC_INIT. -/
  crcInit        : Byte
  /-- CRC_REFLECT. -/
  crcReflect     : Bool
  /-- CRC_XOROUT. -/
  crcXorOut      : Byte
  /-- WORD_ORDER. -/
  wordOrder      : WordOrder
  /-- FREQ_DIV. -/
  freqDiv        : Nat
  /-- YEAR_BASE. -/
  yearBase       : Nat
  /-- ALARM_CLEAR_CODE. -/
  alarmClearCode : Byte
  /-- GCAP_MAX: the size of the grab store in bytes. -/
  gcapMax        : Nat
  /-- NSTATUS: the number of status snapshot fields. -/
  nstatus        : Nat
  /-- REGTABLE. -/
  regTable       : List Descriptor
deriving DecidableEq, Repr

/-- HDR_LEN: the fixed header length, fixed at 20 by the frame layout (R8, R80). -/
def hdrLen : Nat := 20

/-! ### The reference configuration (R8, D29) -/

/-- A register id of the reference table: `52 45 47 00 00 00 00 00 nn` (D29). -/
def refId (nn : Byte) : Bytes := [0x52, 0x45, 0x47, 0x00, 0x00, 0x00, 0x00, 0x00, nn]

/-- A setting of the reference table: read with an empty query, and written, read back and acknowledged with one
kind `k` (D29). -/
def refSetting (nn : Byte) (craft display : String) (k : Kind) (d : Byte) (range : Option (Int × Int)) : Descriptor :=
  { regId := refId nn, craftName := craft, displayName := display,
    behQr := some .empty, behQw := some k, behRr := some k, behRw := some k,
    dparam := d, range := range, statusField := none }

/-- A status register of the reference table: reply-only, feeding one status field (D29). -/
def refStatus (nn : Byte) (craft display : String) (k : Kind) (f : Nat) : Descriptor :=
  { regId := refId nn, craftName := craft, displayName := display,
    behQr := none, behQw := none, behRr := some k, behRw := none,
    dparam := 0, range := none, statusField := some f }

/-- ACLR, the write-only acknowledgement register of the reference table (D29). -/
def refAlarmClear : Descriptor :=
  { regId := refId 0x0A, craftName := "ACLR", displayName := "alarm clear",
    behQr := none, behQw := some .alarmClear, behRr := none, behRw := some .alarmClear,
    dparam := 0, range := none, statusField := none }

/-- The first half of the reference register table (D29). -/
def refTableLow : List Descriptor :=
  [ refSetting 0x01 "TSET" "room setpoint" .temp16 0 (some (100, 600)),
    refStatus  0x02 "TOUT" "outdoor temperature" .temp16 0,
    refSetting 0x03 "FAN" "fan speed setting" .percent 0 (some (0, 100)),
    refStatus  0x04 "FANST" "fan speed now" .percent 1,
    refStatus  0x05 "CFREQ" "compressor frequency" .freq16 2,
    refSetting 0x06 "DST" "daylight saving" .flag 0 none,
    refSetting 0x07 "SANP" "sanitary priority" .enum 2 none,
    refSetting 0x08 "CLOCK" "clock time" .timeHm 0 none ]

/-- The second half of the reference register table (D29). -/
def refTableHigh : List Descriptor :=
  [ refSetting 0x09 "DATE" "calendar date" .dateDmy 0 none,
    refAlarmClear,
    refStatus  0x0B "GEN" "generic value" .generic16 3,
    refSetting 0x0C "SOFF" "sensor offset" .temp16 0 (some (-100, 100)),
    refSetting 0x0D "CODE" "digit code" .digits 4 none,
    refStatus  0x0E "TIN8" "indoor temperature, 1 byte" .temp8 4,
    refSetting 0x0F "EHW" "extra hot water" .flag 0 none,
    refSetting 0x10 "FPD" "fireplace / day delay" .flag 0 none ]

/-- The reference configuration (R8): the values spec/95_test_vectors.md uses. They are the spec's own choice, no
claim about the real protocol (log entry 2). -/
def Config.reference : Config :=
  { cap := 64,
    dirQuery := 0x51, dirReply := 0x52, opRead := 0x72, opWrite := 0x77,
    crcPoly := 0x07, crcInit := 0x00, crcReflect := false, crcXorOut := 0x00,
    wordOrder := .le, freqDiv := 10, yearBase := 2000, alarmClearCode := 0x01,
    gcapMax := 64, nstatus := 8, regTable := refTableLow ++ refTableHigh }

end Sys2Proof
end

