-- ==== Sys2Proof/Machine/State.lean ====
section
/-! DEFINITION. The state of one CZ-FA instance (spec/10_state.md R23 to R38) as plain data, the result record
(spec/30_encoding.md R73), the reasons a step can stop, and the state after reset. -/

namespace Sys2Proof.Machine

/-! ### What a result says -/

/-- STATUS codes (R281). -/
inductive StatusCode where
  | ok | illegalCmd | badOperand | decodeFault | encodeFault | noRegister | unsupported | addrUnset
deriving DecidableEq, Repr

/-- CAUSE codes (R282). -/
inductive Cause where
  | none | length | range | header | crc
deriving DecidableEq, Repr

/-- RES_CLASS: the classification of a PROCESS step (R79). -/
inductive FrameClass where
  | none | corrupted | query | reply | unknown
deriving DecidableEq, Repr

/-- RES_DISP: the dispatch outcome of a PROCESS step (R79). -/
inductive Dispatched where
  | none | ok | decodeFault | unsupported | noRegister | badDiscriminator
deriving DecidableEq, Repr

/-- The op of a query or reply (R84). -/
inductive RegOp where
  | read | write
deriving DecidableEq, Repr

/-- The direction a received frame's direction byte names (R83). -/
inductive WireDir where
  | query | reply
deriving DecidableEq, Repr

/-- The direction a frame record reports: its provenance (R89). -/
inductive Direction where
  | outgoingQuery | incomingQuery | reply
deriving DecidableEq, Repr

/-- RES_FRAME: the fields of a CRC-valid or submitted frame (R100). -/
structure FrameRecord where
  dst       : Bytes
  src       : Bytes
  dirByte   : Byte
  /-- The declared payload length `P`, the raw byte 9. -/
  lenByte   : Byte
  opByte    : Byte
  regId     : Bytes
  payload   : Bytes
  crc       : Byte
  direction : Option Direction
  op        : Option RegOp
deriving DecidableEq, Repr

/-- The result record every command returns (R73). Each field's default is the one R73 gives. -/
structure Result where
  /-- STATUS. -/
  status   : StatusCode := .ok
  /-- CAUSE. -/
  cause    : Cause := .none
  /-- RES_VALUE. -/
  value    : Value := 0
  /-- RES_VALID. -/
  valid    : Bool := false
  /-- RES_BYTES. -/
  bytes    : Bytes := []
  /-- RES_CLASS. -/
  resClass : FrameClass := .none
  /-- RES_DISP. -/
  disp     : Dispatched := .none
  /-- RES_KIND: 4 bits, a codec kind's code (R90). -/
  kind     : BitVec 4 := 0
  /-- RES_FIELD. -/
  field    : Option Nat := none
  /-- RES_FRAME. -/
  frame    : Option FrameRecord := none
deriving DecidableEq, Repr

/-! ### The state elements -/

/-- A byte store: the bytes that have a value, by index, indices strictly rising (log entry 4). A byte that is not
listed is one the spec calls unspecified and has no value. -/
abbrev Memory := List Host.Cell

/-- The canonical form of a store: indices strictly rise, so that equal stores are equal data. No entry can equal
what an unlisted index reads as, since an unlisted index has no value. -/
abbrev Memory.wf (m : Memory) : Prop := m.Pairwise (fun x y => x.1 < y.1)

/-- A 4-byte bus address: an opaque byte string (R9, R29, R54). -/
structure BusAddr where
  b0 : Byte
  b1 : Byte
  b2 : Byte
  b3 : Byte
deriving DecidableEq, Repr

/-- The address as the byte string it is in a frame (R80). -/
def BusAddr.toBytes (a : BusAddr) : Bytes := [a.b0, a.b1, a.b2, a.b3]

/-- The content of a written status field: kind, VALUE word and DIGITS bytes (R35). -/
structure StatusEntry where
  kind  : Kind
  value : Value
  bytes : Bytes
deriving DecidableEq, Repr

/-- What the host hands to the block: a command on the port (R70) or an external reset between commands (R310). -/
inductive HostEvent where
  | command (c : Command)
  | reset
deriving DecidableEq, Repr

/-- The state of one CZ-FA instance: the tuple of R23, and the model's own `cfg` (the instance's constant
configuration, R37), `inputs` (what the host has issued) and `results` (the result records returned). -/
structure State where
  /-- The configuration of the instance, which no step changes (R37; log entry 2). -/
  cfg           : Config
  /-- BUFSTORE (R24). -/
  bufStore      : Memory
  /-- FILL (R25). -/
  fill          : Nat
  /-- EXPLEN (R27). -/
  expLen        : Option Nat
  /-- HP_ADDR (R29). -/
  hpAddr        : BusAddr
  /-- HP_ADDR_VALID (R29). -/
  hpAddrValid   : Bool
  /-- CTRL_ADDR (R30). -/
  ctrlAddr      : BusAddr
  /-- CTRL_ADDR_VALID (R30). -/
  ctrlAddrValid : Bool
  /-- GRAB_EN (R31). -/
  grabEn        : Bool
  /-- GRAB_CAP (R32). -/
  grabCap       : Nat
  /-- GRAB_STORE (R33). -/
  grabStore     : Memory
  /-- GRAB_LEN (R34). -/
  grabLen       : Nat
  /-- STATUS: one entry for each of the NSTATUS fields (R35). -/
  status        : List (Option StatusEntry)
  /-- TX: the frames handed to the transport, oldest first (R36; log entry 9). -/
  tx            : List Bytes
  /-- The host events not yet taken, next first (log entry 1). -/
  inputs        : List HostEvent
  /-- The result records returned, oldest first (R323; log entries 1 and 9). -/
  results       : List Result
deriving DecidableEq, Repr

/-! ### Why a step stops -/

/-- The faults. -/
inductive Fault where
  /-- A command reads a byte of BUFSTORE or GRAB_STORE that has no value. Raised by PROCESS, PROCESS.NC and
  READ_GRAB. Safe: the spec calls such a byte unspecified and no rule reads one (R24, R33); no state that a legal
  instance reaches raises it (log entry 4). -/
  | unspecifiedByte
deriving DecidableEq, Repr

/-- The refusals. -/
inductive Refusal where
  /-- An instruction whose meaning is not written yet. Safe. No arm of `exec` answers it. -/
  | notModelled (mnemonic : String)
  /-- The host event is no command of the port: its ARG is longer than 65535 bytes (R70). Raised by `step`. Safe
  (log entry 6). -/
  | argTooLong
  /-- The configuration fails a check of R8 or R98, and the model builds no instance from it. Raised by
  `State.create`. Safe. -/
  | illegalConfig
deriving DecidableEq, Repr

/-! ### Reset -/

/-- The reset state of an instance with configuration `c` (R38, R311). The unspecified stores list no byte (log
entry 4); the unspecified addresses are zero (DESIGN CHOICE, log entry 3). -/
def State.initial (c : Config) : State :=
  { cfg := c,
    bufStore := [], fill := 0, expLen := none,
    hpAddr := ⟨0, 0, 0, 0⟩, hpAddrValid := false,
    ctrlAddr := ⟨0, 0, 0, 0⟩, ctrlAddrValid := false,
    grabEn := false, grabCap := 0, grabStore := [], grabLen := 0,
    status := List.replicate c.nstatus none,
    tx := [], inputs := [], results := [] }

/-- The machine right after reset, in the reference configuration (R8, R38; log entry 2). -/
def State.reset : State := State.initial Config.reference

end Sys2Proof.Machine
end

