-- ==== Sys2Proof/Machine/Ops.lean ====
section
/-! DEFINITION. The shared operations of the commands: byte stores (spec/20_memory.md R50, R51), the incoming buffer
(spec/10_state.md R24), the grab (spec/42_assembler.md R154), the status projection (R152), the transport event (R242),
and the end of a command: `result`, and `raise`, which stands where another machine takes an exception
(spec/00_scope.md R12; spec/60_exceptions.md R280, R293, R294). -/

namespace Sys2Proof.Machine

/-! ### Byte stores -/

/-- The byte at an index, `none` where the store gives it no value. -/
def Memory.read : Memory → Nat → Option Byte
  | [], _ => none
  | (k, b) :: rest, a => if k = a then some b else Memory.read rest a

/-- Give the byte at an index a value, keeping the indices strictly rising. -/
def Memory.write : Memory → Nat → Byte → Memory
  | [], a, b => [(a, b)]
  | (k, c) :: rest, a, b =>
    if a < k then (a, b) :: (k, c) :: rest
    else if k = a then (a, b) :: rest
    else (k, c) :: Memory.write rest a b

/-- `MemRead(a, n)`: the `n` bytes from index `a` (R12), `none` where one of them has no value. -/
def Memory.readBytes (m : Memory) : Nat → Nat → Option Bytes
  | _, 0 => some []
  | a, n + 1 =>
    match Memory.read m a, Memory.readBytes m (a + 1) n with
    | some b, some bs => some (b :: bs)
    | _, _ => none

/-- `STORE[a .. a + len bs) <- bs`. -/
def Memory.writeBytes : Memory → Nat → Bytes → Memory
  | m, _, [] => m
  | m, a, b :: bs => Memory.writeBytes (Memory.write m a b) (a + 1) bs

/-- The first `n` bytes leave and the rest move down to index 0 (R112, R153). -/
def Memory.shiftDown (n : Nat) : Memory → Memory
  | [] => []
  | (k, b) :: rest => if n ≤ k then (k - n, b) :: Memory.shiftDown n rest else Memory.shiftDown n rest

/-- The store whose bytes from index `a` on are `bs`, and in which no other byte has a value. -/
def Memory.ofBytes : Nat → Bytes → Memory
  | _, [] => []
  | a, b :: bs => (a, b) :: Memory.ofBytes (a + 1) bs

/-! ### The incoming buffer -/

/-- `BUF = BUFSTORE[0..FILL)` (R24), `none` where a byte of it has no value. -/
def State.buf (s : State) : Option Bytes := Memory.readBytes s.bufStore 0 s.fill

/-- `BUF <- drop(n, BUF); FILL <- FILL − n; EXPLEN <- none`, the one way bytes leave the front (R112, R153). -/
def State.removeFront (s : State) (n : Nat) : State :=
  { s with bufStore := Memory.shiftDown n s.bufStore, fill := s.fill - n, expLen := none }

/-- `BUFSTORE[FILL .. FILL + a) <- bs; FILL <- FILL + a` for `a = len bs` (R111). -/
def State.appendBytes (s : State) (bs : Bytes) : State :=
  { s with bufStore := Memory.writeBytes s.bufStore s.fill bs, fill := s.fill + bs.length }

/-! ### The grab sink -/

/-- `grab(m)` with the buffer content `buf` (R154). The bytes of GRAB_STORE at and above the new GRAB_LEN are
unspecified (R33) and have no value (log entry 5). -/
def State.grab (s : State) (m : Nat) (buf : Bytes) : State :=
  if s.grabEn then
    let g := min m s.grabCap
    { s with grabStore := Memory.ofBytes 0 (buf.take g), grabLen := g }
  else s

/-! ### The status snapshot and the transport -/

/-- The status projector's write `STATUS[f] <- some e`, if there is one (R152). -/
def State.project (s : State) (w : Option (Nat × StatusEntry)) : State :=
  match w with
  | some (f, e) => { s with status := s.status.set f (some e) }
  | none => s

/-- `emit TX(frame)` (R12, R242). -/
def State.emitTx (s : State) (frame : Bytes) : State := { s with tx := s.tx ++ [frame] }

/-! ### The end of a command -/

/-- `result(...)`: the command ends and delivers its result record (R12, R73). The command leaves the port. -/
def State.result (s : State) (r : Result) : State :=
  { s with inputs := s.inputs.tail, results := s.results ++ [r] }

/-- `raise Status(code, cause)`: the command ends with that status and every other field at its default, and writes
no state (R12, R73, R293). CZ-FA has no trap entry, no handler and no return from one (R280, R293, R294): this is
all that an exception of this machine does. -/
def State.raise (s : State) (code : StatusCode) (cause : Cause) : State :=
  s.result { status := code, cause := cause }

end Sys2Proof.Machine
end

