-- ==== Sys2Proof/Machine/Buffer.lean ====
section
/-! DEFINITION. The incoming buffer commands (spec/40_buffer.md): NOP, APPEND, CONSUME, RESET_BUF. -/

namespace Sys2Proof.Machine

/-- NOP: do nothing (R110). -/
def execNop (s : State) : Host.Outcome State Fault Refusal := .next (s.result {})

/-- APPEND: add transport bytes to the end of the buffer, as many as fit (R111). EXPLEN is unchanged (R27). -/
def execAppend (arg : Bytes) (s : State) : Host.Outcome State Fault Refusal :=
  let a := min arg.length (s.cfg.cap - s.fill)
  .next ((s.appendBytes (arg.take a)).result { value := BitVec.ofNat 32 a, valid := true })

/-- CONSUME n: remove the first `n` buffered bytes (R112). -/
def execConsume (n : Byte) (s : State) : Host.Outcome State Fault Refusal :=
  if s.fill < n.toNat then .next (s.raise .badOperand .none)
  else
    let t := s.removeFront n.toNat
    .next (t.result { value := BitVec.ofNat 32 t.fill, valid := true })

/-- RESET_BUF: discard all buffered bytes (R113). The bytes of BUFSTORE become unspecified: none has a value. -/
def execResetBuf (s : State) : Host.Outcome State Fault Refusal :=
  .next (({ s with bufStore := [], fill := 0, expLen := none } : State).result {})

end Sys2Proof.Machine
end

