-- ==== Sys2Proof/Machine/Operands.lean ====
section
/-! DEFINITION. The operand forms of CZ-FA: 16-bit payload fields (spec/30_encoding.md R92), the sub-fields of a VALUE
word (R93), sign readings (spec/00_scope.md R10), the operand splits of CRC8 (R133), SUBMIT (R240) and SET_ADDR (R255),
the declared payload length and the intrinsic range of a kind (R91, R93), and the host's physical reading of a value
word (R95). -/

namespace Sys2Proof.Machine

/-! ### 16-bit payload fields (R55, R92) -/

/-- `unword16([b0, b1])` in a byte order (R92). -/
def unword16 (o : WordOrder) (b0 b1 : Byte) : Nat :=
  match o with
  | .le => b0.toNat + 256 * b1.toNat
  | .be => 256 * b0.toNat + b1.toNat

/-- `word16(w)` for `0 ≤ w ≤ 65535` in a byte order (R92). -/
def word16 (o : WordOrder) (w : Nat) : Bytes :=
  match o with
  | .le => [BitVec.ofNat 8 (w % 256), BitVec.ofNat 8 (w / 256)]
  | .be => [BitVec.ofNat 8 (w / 256), BitVec.ofNat 8 (w % 256)]

/-! ### Sign and zero extension (R10) -/

/-- `sext_16`: a 16-bit number sign-extended to 32 bits. -/
def sext16 (raw : Nat) : Value := (BitVec.ofNat 16 raw).signExtend 32

/-- `sext_8`: a byte sign-extended to 32 bits. -/
def sext8 (b : Byte) : Value := b.signExtend 32

/-- `zext_16`: a 16-bit number zero-extended to 32 bits. -/
def zext16 (raw : Nat) : Value := (BitVec.ofNat 16 raw).setWidth 32

/-- `zext_8`: a byte zero-extended to 32 bits. -/
def zext8 (b : Byte) : Value := b.setWidth 32

/-- `sval_32(VALUE)` (R10). -/
def sval32 (v : Value) : Int := v.toInt

/-- `uval(VALUE)` (R10). -/
def uval (v : Value) : Nat := v.toNat

/-! ### Sub-fields of a VALUE word (R93) -/

/-- `VALUE[31:16]`. -/
def valueHigh (v : Value) : Nat := (v.extractLsb' 16 16).toNat

/-- `VALUE[15:0]`. -/
def valueLow (v : Value) : Nat := (v.extractLsb' 0 16).toNat

/-- `VALUE[15:8]`. -/
def valueByte1 (v : Value) : Byte := v.extractLsb' 8 8

/-- `VALUE[7:0]`. -/
def valueByte0 (v : Value) : Byte := v.extractLsb' 0 8

/-- `hi[15:0] ‖ lo[15:0]`, the packing of READ_GRAB and READ_STATE (R260, R261). -/
def packHalves (hi lo : Nat) : Value := BitVec.ofNat 16 hi ++ BitVec.ofNat 16 lo

/-- `(y << 16) | (b1 << 8) | b0`, the packing of TIME_HM and DATE_DMY (R93, R187, R188). -/
def packFields (y : Nat) (b1 b0 : Byte) : Value := BitVec.ofNat 16 y ++ (b1 ++ b0)

/-! ### Operand splits -/

/-- `s[i]`: byte `i` of a sequence (R11). No rule reads at `i ≥ len(s)`, and every use here is below the length. -/
def byteAt (s : Bytes) (i : Nat) : Byte := s.getD i 0

/-- `s[i..j)`: bytes `i` to `j − 1`, empty when `j ≤ i` (R11). -/
def sliceOf (s : Bytes) (i j : Nat) : Bytes := (s.drop i).take (j - i)

/-- CRC8's `start = VALUE[31:16]` (R133). -/
def crcStart (v : Value) : Nat := valueHigh v

/-- CRC8's `length = VALUE[15:0]` (R133). -/
def crcLength (v : Value) : Nat := valueLow v

/-- SUBMIT's `rid = ARG[0..9)` (R240). -/
def submitRid (arg : Bytes) : Bytes := arg.take 9

/-- SUBMIT's `tail = ARG[9..)` (R240). -/
def submitTail (arg : Bytes) : Bytes := arg.drop 9

/-- SET_ADDR's operand: the 4 address bytes, `none` for an ARG of any other length (R255, R256). -/
def busAddrOf : Bytes → Option BusAddr
  | [b0, b1, b2, b3] => some ⟨b0, b1, b2, b3⟩
  | _ => none

/-! ### Kinds (R91, R93) -/

/-- `dlen(k, d)`: the declared payload length of a kind (R91). -/
def dlen (k : Kind) (d : Byte) : Nat :=
  match k with
  | .temp16 => 2
  | .temp8 => 1
  | .freq16 => 2
  | .percent => 1
  | .timeHm => 2
  | .dateDmy => 3
  | .flag => 1
  | .enum => 1
  | .digits => d.toNat
  | .alarmClear => 1
  | .generic16 => 2
  | .empty => 0

/-- The intrinsic range of the kinds a descriptor range may narrow (R93, R98 WF-RANGE); `none` for the others. -/
def intrinsicRange (k : Kind) (d : Byte) : Option (Int × Int) :=
  match k with
  | .temp16 => some (-32768, 32767)
  | .temp8 => some (-128, 127)
  | .freq16 => some (0, 65535)
  | .percent => some (0, 100)
  | .flag => some (0, 1)
  | .enum => some (0, d.toNat)
  | .generic16 => some (0, 65535)
  | .timeHm => none
  | .dateDmy => none
  | .digits => none
  | .alarmClear => none
  | .empty => none

/-- The number a VALUE word is compared as: signed for the temperatures, unsigned for the others (R93, R224). -/
def typedValue (k : Kind) (v : Value) : Int :=
  match k with
  | .temp16 => sval32 v
  | .temp8 => sval32 v
  | .freq16 => uval v
  | .percent => uval v
  | .timeHm => uval v
  | .dateDmy => uval v
  | .flag => uval v
  | .enum => uval v
  | .digits => uval v
  | .alarmClear => uval v
  | .generic16 => uval v
  | .empty => uval v

/-- The legal typed values of a kind, as a VALUE word with its bytes (R93). -/
def legalValue (c : Config) (k : Kind) (d : Byte) (v : Value) (bs : Bytes) : Bool :=
  match k with
  | .temp16 => decide (-32768 ≤ sval32 v ∧ sval32 v ≤ 32767) && bs.isEmpty
  | .temp8 => decide (-128 ≤ sval32 v ∧ sval32 v ≤ 127) && bs.isEmpty
  | .freq16 => decide (uval v ≤ 65535) && bs.isEmpty
  | .percent => decide (uval v ≤ 100) && bs.isEmpty
  | .timeHm => decide (valueHigh v = 0 ∧ (valueByte1 v).toNat ≤ 23 ∧ (valueByte0 v).toNat ≤ 59) && bs.isEmpty
  | .dateDmy =>
    decide (1 ≤ (valueByte0 v).toNat ∧ (valueByte0 v).toNat ≤ 31 ∧ 1 ≤ (valueByte1 v).toNat ∧ (valueByte1 v).toNat ≤ 12)
      && decide (c.yearBase ≤ valueHigh v ∧ valueHigh v ≤ c.yearBase + 255) && bs.isEmpty
  | .flag => decide (uval v ≤ 1) && bs.isEmpty
  | .enum => decide (uval v ≤ d.toNat) && bs.isEmpty
  | .digits => decide (v = 0) && decide (bs.length = d.toNat)
  | .alarmClear => decide (v = 0) && bs.isEmpty
  | .generic16 => decide (uval v ≤ 65535) && bs.isEmpty
  | .empty => decide (v = 0) && bs.isEmpty

/-! ### The host's physical reading (R95) -/

/-- What a value word means physically. CZ-FA never computes it (R95); fractions are exact. -/
inductive Reading where
  /-- `num / den` degrees Celsius. -/
  | celsius (num : Int) (den : Nat)
  /-- `num / den` Hz. -/
  | hertz (num den : Nat)
  /-- Percent. -/
  | percentage (n : Nat)
  /-- Bus-local clock time, with no timezone. -/
  | clock (hour minute : Nat)
  /-- Bus-local date, with no timezone. -/
  | date (year month day : Nat)
  /-- A kind with no unit. -/
  | unitless
deriving DecidableEq, Repr

/-- The physical reading of a kind's value word (R95; log entry 11). -/
def physicalReading (c : Config) (k : Kind) (v : Value) : Reading :=
  match k with
  | .temp16 => .celsius (sval32 v) 10
  | .temp8 => .celsius (sval32 v) 1
  | .freq16 => .hertz (uval v) c.freqDiv
  | .percent => .percentage (uval v)
  | .timeHm => .clock (valueByte1 v).toNat (valueByte0 v).toNat
  | .dateDmy => .date (valueHigh v) (valueByte1 v).toNat (valueByte0 v).toNat
  | .flag => .unitless
  | .enum => .unitless
  | .digits => .unitless
  | .alarmClear => .unitless
  | .generic16 => .unitless
  | .empty => .unitless

end Sys2Proof.Machine
end

