-- ==== Sys2Proof/Machine/Configure.lean ====
section
/-! DEFINITION. The configuration commands (spec/46_config_readout.md R255 to R258): SET_ADDR and SET_GRAB. -/

namespace Sys2Proof.Machine

/-- SET_ADDR.HP: set the heat-pump bus address (R255). -/
def execSetAddrHp (arg : Bytes) (s : State) : Host.Outcome State Fault Refusal :=
  match busAddrOf arg with
  | none => .next (s.raise .badOperand .none)
  | some a => .next (({ s with hpAddr := a, hpAddrValid := true } : State).result {})

/-- SET_ADDR.CTRL: set the controller's own bus address (R256). -/
def execSetAddrCtrl (arg : Bytes) (s : State) : Host.Outcome State Fault Refusal :=
  match busAddrOf arg with
  | none => .next (s.raise .badOperand .none)
  | some a => .next (({ s with ctrlAddr := a, ctrlAddrValid := true } : State).result {})

/-- SET_GRAB.OFF: disable the grab sink (R257). With `GRAB_LEN = 0` every byte of GRAB_STORE is unspecified (R33)
and has no value (log entry 5). -/
def execSetGrabOff (s : State) : Host.Outcome State Fault Refusal :=
  .next (({ s with grabEn := false, grabStore := [], grabLen := 0 } : State).result {})

/-- SET_GRAB.ON: enable the grab sink with a declared capacity (R258). With `GRAB_LEN = 0` every byte of GRAB_STORE
is unspecified (R33) and has no value (log entry 5). -/
def execSetGrabOn (value : Value) (s : State) : Host.Outcome State Fault Refusal :=
  if s.cfg.gcapMax < uval value then .next (s.raise .badOperand .none)
  else
    .next (({ s with grabEn := true, grabCap := uval value, grabStore := [], grabLen := 0 } : State).result {})

end Sys2Proof.Machine
end

