-- ==== Sys2Proof/Machine/Crc.lean ====
section
/-! DEFINITION. The CRC-8 engine (spec/41_crc8.md R130 to R132) and the CRC8 command (R133). -/

namespace Sys2Proof.Machine

/-- `rev8(x)`: the 8 bits of `x` in reverse order (R131). -/
def rev8 (x : Byte) : Byte := x.reverse

/-- One shift of the MSB-first register (R130). -/
def crcShift (poly c : Byte) : Byte := if c.getLsbD 7 then (c <<< 1) ^^^ poly else c <<< 1

/-- One shift of the LSB-first register (R131). -/
def crcShiftR (poly c : Byte) : Byte := if c.getLsbD 0 then (c >>> 1) ^^^ rev8 poly else c >>> 1

/-- `n` shifts of a register. -/
def crcShifts (shift : Byte → Byte) : Nat → Byte → Byte
  | 0, c => c
  | n + 1, c => crcShifts shift n (shift c)

/-- `crc8_step(c, b)` (R130). -/
def crcStep (poly c b : Byte) : Byte := crcShifts (crcShift poly) 8 (c ^^^ b)

/-- `crc8_step_r(c, b)` (R131). -/
def crcStepR (poly c b : Byte) : Byte := crcShifts (crcShiftR poly) 8 (c ^^^ b)

/-- The register's start value (R131, R132). -/
def crcStartValue (c : Config) : Byte := if c.crcReflect then rev8 c.crcInit else c.crcInit

/-- The register update of the configured mode (R130, R131). -/
def crcUpdate (c : Config) (r b : Byte) : Byte :=
  if c.crcReflect then crcStepR c.crcPoly r b else crcStep c.crcPoly r b

/-- The checksum of a whole byte sequence (R132). -/
def crcOf (c : Config) (bs : Bytes) : Byte := bs.foldl (crcUpdate c) (crcStartValue c) ^^^ c.crcXorOut

/-- `crc8(bytes, start, length)`, used with `start + length ≤ len(bytes)` (R132). -/
def crc8 (c : Config) (bytes : Bytes) (start length : Nat) : Byte :=
  crcOf c (sliceOf bytes start (start + length))

/-- CRC8: compute the checksum of an operand (R133). -/
def execCrc8 (arg : Bytes) (value : Value) (s : State) : Host.Outcome State Fault Refusal :=
  if arg.length < crcStart value + crcLength value then .next (s.raise .badOperand .none)
  else .next (s.result { value := zext8 (crc8 s.cfg arg (crcStart value) (crcLength value)), valid := true })

end Sys2Proof.Machine
end

