-- ==== Sys2Proof/Machine/Codec.lean ====
section
/-! DEFINITION. The register codec: the decode kernels and their mux (spec/43_codec_decode.md R180 to R194), the encode
kernels and their mux (spec/44_codec_encode.md R210 to R223), and the descriptor range (R224). No kernel reads or
writes state. -/

namespace Sys2Proof.Machine

/-- The cause of a codec fault: LENGTH or RANGE (R282). -/
inductive CodecFault where
  | length
  | range
deriving DecidableEq, Repr

/-- The cause code of a codec fault (R282). -/
def causeOf : CodecFault → Cause
  | .length => .length
  | .range => .range

/-- What a decode kernel returns: `ok(v, bs)` or `fault(cause)`. -/
inductive DecodeOut where
  | ok (v : Value) (bs : Bytes)
  | fault (cause : CodecFault)
deriving DecidableEq, Repr

/-- What an encode kernel returns: `ok(payload)` or `fault(cause)`. -/
inductive EncodeOut where
  | ok (payload : Bytes)
  | fault (cause : CodecFault)
deriving DecidableEq, Repr

/-! ### Decode kernels: the length check comes first (R181) -/

/-- TEMP16 (R183). -/
def kDecodeTemp16 (o : WordOrder) : Bytes → DecodeOut
  | [b0, b1] => .ok (sext16 (unword16 o b0 b1)) []
  | _ => .fault .length

/-- TEMP8 (R184). -/
def kDecodeTemp8 : Bytes → DecodeOut
  | [b] => .ok (sext8 b) []
  | _ => .fault .length

/-- FREQ16 (R185). -/
def kDecodeFreq16 (o : WordOrder) : Bytes → DecodeOut
  | [b0, b1] => .ok (zext16 (unword16 o b0 b1)) []
  | _ => .fault .length

/-- One byte with a largest legal raw value: the shape of PERCENT, FLAG and ENUM (R186, R189, R190). -/
def kDecodeUpTo (most : Nat) : Bytes → DecodeOut
  | [b] => if most < b.toNat then .fault .range else .ok (zext8 b) []
  | _ => .fault .length

/-- PERCENT (R186). -/
def kDecodePercent (p : Bytes) : DecodeOut := kDecodeUpTo 100 p

/-- TIME_HM (R187). -/
def kDecodeTimeHm : Bytes → DecodeOut
  | [h, m] => if 23 < h.toNat ∨ 59 < m.toNat then .fault .range else .ok (packFields 0 h m) []
  | _ => .fault .length

/-- DATE_DMY (R188). -/
def kDecodeDateDmy (yearBase : Nat) : Bytes → DecodeOut
  | [d, m, y] =>
    if d.toNat < 1 ∨ 31 < d.toNat ∨ m.toNat < 1 ∨ 12 < m.toNat then .fault .range
    else .ok (packFields (yearBase + y.toNat) m d) []
  | _ => .fault .length

/-- FLAG (R189). -/
def kDecodeFlag (p : Bytes) : DecodeOut := kDecodeUpTo 1 p

/-- ENUM (R190). -/
def kDecodeEnum (d : Byte) (p : Bytes) : DecodeOut := kDecodeUpTo d.toNat p

/-- DIGITS (R191). -/
def kDecodeDigits (d : Byte) (p : Bytes) : DecodeOut :=
  if p.length = d.toNat then .ok 0 p else .fault .length

/-- ALARM_CLEAR (R192): the byte's value is not checked. -/
def kDecodeAlarmClear : Bytes → DecodeOut
  | [_] => .ok 0 []
  | _ => .fault .length

/-- GENERIC16 (R193). -/
def kDecodeGeneric16 (o : WordOrder) : Bytes → DecodeOut
  | [b0, b1] => .ok (zext16 (unword16 o b0 b1)) []
  | _ => .fault .length

/-- EMPTY (R194). -/
def kDecodeEmpty : Bytes → DecodeOut
  | [] => .ok 0 []
  | _ => .fault .length

/-- The decode mux `decode(k, d, p)` (R180). -/
def decodeKernel (c : Config) (k : Kind) (d : Byte) (p : Bytes) : DecodeOut :=
  match k with
  | .temp16 => kDecodeTemp16 c.wordOrder p
  | .temp8 => kDecodeTemp8 p
  | .freq16 => kDecodeFreq16 c.wordOrder p
  | .percent => kDecodePercent p
  | .timeHm => kDecodeTimeHm p
  | .dateDmy => kDecodeDateDmy c.yearBase p
  | .flag => kDecodeFlag p
  | .enum => kDecodeEnum d p
  | .digits => kDecodeDigits d p
  | .alarmClear => kDecodeAlarmClear p
  | .generic16 => kDecodeGeneric16 c.wordOrder p
  | .empty => kDecodeEmpty p

/-! ### Encode kernels -/

/-- TEMP16 (R212). -/
def kEncodeTemp16 (o : WordOrder) (v : Value) : EncodeOut :=
  if sval32 v < -32768 ∨ 32767 < sval32 v then .fault .range
  else .ok (word16 o (sval32 v % 65536).toNat)

/-- TEMP8 (R213). -/
def kEncodeTemp8 (v : Value) : EncodeOut :=
  if sval32 v < -128 ∨ 127 < sval32 v then .fault .range
  else .ok [BitVec.ofNat 8 (sval32 v % 256).toNat]

/-- A 16-bit unsigned number: the shape of FREQ16 and GENERIC16 (R214, R222). -/
def kEncodeWord (o : WordOrder) (v : Value) : EncodeOut :=
  if 65535 < uval v then .fault .range else .ok (word16 o (uval v))

/-- FREQ16 (R214). -/
def kEncodeFreq16 (o : WordOrder) (v : Value) : EncodeOut := kEncodeWord o v

/-- One byte with a largest legal value: the shape of PERCENT, FLAG and ENUM (R215, R218, R219). -/
def kEncodeUpTo (most : Nat) (v : Value) : EncodeOut :=
  if most < uval v then .fault .range else .ok [BitVec.ofNat 8 (uval v)]

/-- PERCENT (R215). -/
def kEncodePercent (v : Value) : EncodeOut := kEncodeUpTo 100 v

/-- TIME_HM (R216). -/
def kEncodeTimeHm (v : Value) : EncodeOut :=
  if valueHigh v ≠ 0 ∨ 23 < (valueByte1 v).toNat ∨ 59 < (valueByte0 v).toNat then .fault .range
  else .ok [valueByte1 v, valueByte0 v]

/-- DATE_DMY (R217). -/
def kEncodeDateDmy (yearBase : Nat) (v : Value) : EncodeOut :=
  if (valueByte0 v).toNat < 1 ∨ 31 < (valueByte0 v).toNat ∨ (valueByte1 v).toNat < 1 ∨ 12 < (valueByte1 v).toNat then
    .fault .range
  else if valueHigh v < yearBase ∨ yearBase + 255 < valueHigh v then .fault .range
  else .ok [valueByte0 v, valueByte1 v, BitVec.ofNat 8 (valueHigh v - yearBase)]

/-- FLAG (R218). -/
def kEncodeFlag (v : Value) : EncodeOut := kEncodeUpTo 1 v

/-- ENUM (R219). -/
def kEncodeEnum (d : Byte) (v : Value) : EncodeOut := kEncodeUpTo d.toNat v

/-- DIGITS (R220). -/
def kEncodeDigits (d : Byte) (bytes : Bytes) : EncodeOut :=
  if bytes.length = d.toNat then .ok bytes else .fault .length

/-- ALARM_CLEAR (R221). -/
def kEncodeAlarmClear (code : Byte) : EncodeOut := .ok [code]

/-- GENERIC16 (R222). -/
def kEncodeGeneric16 (o : WordOrder) (v : Value) : EncodeOut := kEncodeWord o v

/-- EMPTY (R223). -/
def kEncodeEmpty : EncodeOut := .ok []

/-- The encode mux `encode(k, d, VALUE, bytes)` (R210). -/
def encodeKernel (c : Config) (k : Kind) (d : Byte) (v : Value) (bytes : Bytes) : EncodeOut :=
  match k with
  | .temp16 => kEncodeTemp16 c.wordOrder v
  | .temp8 => kEncodeTemp8 v
  | .freq16 => kEncodeFreq16 c.wordOrder v
  | .percent => kEncodePercent v
  | .timeHm => kEncodeTimeHm v
  | .dateDmy => kEncodeDateDmy c.yearBase v
  | .flag => kEncodeFlag v
  | .enum => kEncodeEnum d v
  | .digits => kEncodeDigits d bytes
  | .alarmClear => kEncodeAlarmClear c.alarmClearCode
  | .generic16 => kEncodeGeneric16 c.wordOrder v
  | .empty => kEncodeEmpty

/-- The descriptor range holds for a value of kind `k` (R224): signed for the temperatures, unsigned otherwise. -/
def inDescriptorRange (range : Option (Int × Int)) (k : Kind) (v : Value) : Bool :=
  match range with
  | none => true
  | some (vmin, vmax) => decide (vmin ≤ typedValue k v ∧ typedValue k v ≤ vmax)

end Sys2Proof.Machine
end

