-- ==== Sys2Proof/Machine/Flags.lean ====
section
/-! DEFINITION. CZ-FA has no status flags or condition codes (spec/10_state.md R22); what a command reports of its
outcome are the numbered codes of its result record, which stand here: STATUS (R281), CAUSE (R282), RES_CLASS and
RES_DISP (R79), and the kind codes of RES_KIND (R90). -/

namespace Sys2Proof.Machine

/-- The 4-bit STATUS code (R281). -/
def StatusCode.code : StatusCode → BitVec 4
  | .ok => 0
  | .illegalCmd => 1
  | .badOperand => 2
  | .decodeFault => 3
  | .encodeFault => 4
  | .noRegister => 5
  | .unsupported => 6
  | .addrUnset => 7

/-- The 4-bit CAUSE code (R282). -/
def Cause.code : Cause → BitVec 4
  | .none => 0
  | .length => 1
  | .range => 2
  | .header => 3
  | .crc => 4

/-- The 3-bit RES_CLASS code (R79). -/
def FrameClass.code : FrameClass → BitVec 3
  | .none => 0
  | .corrupted => 1
  | .query => 2
  | .reply => 3
  | .unknown => 4

/-- The 3-bit RES_DISP code (R79). -/
def Dispatched.code : Dispatched → BitVec 3
  | .none => 0
  | .ok => 1
  | .decodeFault => 2
  | .unsupported => 3
  | .noRegister => 4
  | .badDiscriminator => 5

/-- The 4-bit code of a kind (R90). -/
def kindCode : Kind → BitVec 4
  | .temp16 => 0x0
  | .temp8 => 0x1
  | .freq16 => 0x2
  | .percent => 0x3
  | .timeHm => 0x4
  | .dateDmy => 0x5
  | .flag => 0x6
  | .enum => 0x7
  | .digits => 0x8
  | .alarmClear => 0x9
  | .generic16 => 0xA
  | .empty => 0xB

/-- The kind of a 4-bit code; the codes 0xC to 0xF are reserved and name none (R90, R75). -/
def kindOfCode (k : BitVec 4) : Option Kind :=
  match k.toNat with
  | 0x0 => some .temp16
  | 0x1 => some .temp8
  | 0x2 => some .freq16
  | 0x3 => some .percent
  | 0x4 => some .timeHm
  | 0x5 => some .dateDmy
  | 0x6 => some .flag
  | 0x7 => some .enum
  | 0x8 => some .digits
  | 0x9 => some .alarmClear
  | 0xA => some .generic16
  | 0xB => some .empty
  | _ => none

end Sys2Proof.Machine
end

