-- ==== Sys2Proof/Machine/DecodeCmds.lean ====
section
/-! DEFINITION. The DECODE commands (spec/43_codec_decode.md R182 to R194): each runs one decode kernel on its ARG and
changes no state. -/

namespace Sys2Proof.Machine

/-- DECODE.<kind> with the mux's answer `r` (R182). -/
def finishDecode (k : Kind) (r : DecodeOut) (s : State) : State :=
  match r with
  | .fault cause => s.raise .decodeFault (causeOf cause)
  | .ok v bs => s.result { value := v, bytes := bs, kind := kindCode k, valid := true }

/-- DECODE.TEMP16 (R183). -/
def execDecodeTemp16 (arg : Bytes) (s : State) : Host.Outcome State Fault Refusal :=
  .next (finishDecode .temp16 (decodeKernel s.cfg .temp16 0 arg) s)

/-- DECODE.TEMP8 (R184). -/
def execDecodeTemp8 (arg : Bytes) (s : State) : Host.Outcome State Fault Refusal :=
  .next (finishDecode .temp8 (decodeKernel s.cfg .temp8 0 arg) s)

/-- DECODE.FREQ16 (R185). -/
def execDecodeFreq16 (arg : Bytes) (s : State) : Host.Outcome State Fault Refusal :=
  .next (finishDecode .freq16 (decodeKernel s.cfg .freq16 0 arg) s)

/-- DECODE.PERCENT (R186). -/
def execDecodePercent (arg : Bytes) (s : State) : Host.Outcome State Fault Refusal :=
  .next (finishDecode .percent (decodeKernel s.cfg .percent 0 arg) s)

/-- DECODE.TIME_HM (R187). -/
def execDecodeTimeHm (arg : Bytes) (s : State) : Host.Outcome State Fault Refusal :=
  .next (finishDecode .timeHm (decodeKernel s.cfg .timeHm 0 arg) s)

/-- DECODE.DATE_DMY (R188). -/
def execDecodeDateDmy (arg : Bytes) (s : State) : Host.Outcome State Fault Refusal :=
  .next (finishDecode .dateDmy (decodeKernel s.cfg .dateDmy 0 arg) s)

/-- DECODE.FLAG (R189). -/
def execDecodeFlag (arg : Bytes) (s : State) : Host.Outcome State Fault Refusal :=
  .next (finishDecode .flag (decodeKernel s.cfg .flag 0 arg) s)

/-- DECODE.ENUM (R190). -/
def execDecodeEnum (d : Byte) (arg : Bytes) (s : State) : Host.Outcome State Fault Refusal :=
  .next (finishDecode .enum (decodeKernel s.cfg .enum d arg) s)

/-- DECODE.DIGITS (R191). -/
def execDecodeDigits (d : Byte) (arg : Bytes) (s : State) : Host.Outcome State Fault Refusal :=
  .next (finishDecode .digits (decodeKernel s.cfg .digits d arg) s)

/-- DECODE.ALARM_CLEAR (R192). -/
def execDecodeAlarmClear (arg : Bytes) (s : State) : Host.Outcome State Fault Refusal :=
  .next (finishDecode .alarmClear (decodeKernel s.cfg .alarmClear 0 arg) s)

/-- DECODE.GENERIC16 (R193). -/
def execDecodeGeneric16 (arg : Bytes) (s : State) : Host.Outcome State Fault Refusal :=
  .next (finishDecode .generic16 (decodeKernel s.cfg .generic16 0 arg) s)

/-- DECODE.EMPTY (R194). -/
def execDecodeEmpty (arg : Bytes) (s : State) : Host.Outcome State Fault Refusal :=
  .next (finishDecode .empty (decodeKernel s.cfg .empty 0 arg) s)

end Sys2Proof.Machine
end

