-- ==== Sys2Proof/Machine/EncodeCmds.lean ====
section
/-! DEFINITION. The ENCODE commands (spec/44_codec_encode.md R211 to R223): each runs one encode kernel on its operand,
with the kind's intrinsic range only, transmits nothing and changes no state. -/

namespace Sys2Proof.Machine

/-- ENCODE.<kind> with the mux's answer `r` (R211). -/
def finishEncode (k : Kind) (r : EncodeOut) (s : State) : State :=
  match r with
  | .fault cause => s.raise .encodeFault (causeOf cause)
  | .ok payload => s.result { bytes := payload, kind := kindCode k, valid := true }

/-- ENCODE.TEMP16 (R212). -/
def execEncodeTemp16 (value : Value) (s : State) : Host.Outcome State Fault Refusal :=
  .next (finishEncode .temp16 (encodeKernel s.cfg .temp16 0 value []) s)

/-- ENCODE.TEMP8 (R213). -/
def execEncodeTemp8 (value : Value) (s : State) : Host.Outcome State Fault Refusal :=
  .next (finishEncode .temp8 (encodeKernel s.cfg .temp8 0 value []) s)

/-- ENCODE.FREQ16 (R214). -/
def execEncodeFreq16 (value : Value) (s : State) : Host.Outcome State Fault Refusal :=
  .next (finishEncode .freq16 (encodeKernel s.cfg .freq16 0 value []) s)

/-- ENCODE.PERCENT (R215). -/
def execEncodePercent (value : Value) (s : State) : Host.Outcome State Fault Refusal :=
  .next (finishEncode .percent (encodeKernel s.cfg .percent 0 value []) s)

/-- ENCODE.TIME_HM (R216). -/
def execEncodeTimeHm (value : Value) (s : State) : Host.Outcome State Fault Refusal :=
  .next (finishEncode .timeHm (encodeKernel s.cfg .timeHm 0 value []) s)

/-- ENCODE.DATE_DMY (R217). -/
def execEncodeDateDmy (value : Value) (s : State) : Host.Outcome State Fault Refusal :=
  .next (finishEncode .dateDmy (encodeKernel s.cfg .dateDmy 0 value []) s)

/-- ENCODE.FLAG (R218). -/
def execEncodeFlag (value : Value) (s : State) : Host.Outcome State Fault Refusal :=
  .next (finishEncode .flag (encodeKernel s.cfg .flag 0 value []) s)

/-- ENCODE.ENUM (R219). -/
def execEncodeEnum (d : Byte) (value : Value) (s : State) : Host.Outcome State Fault Refusal :=
  .next (finishEncode .enum (encodeKernel s.cfg .enum d value []) s)

/-- ENCODE.DIGITS (R220). -/
def execEncodeDigits (d : Byte) (arg : Bytes) (s : State) : Host.Outcome State Fault Refusal :=
  .next (finishEncode .digits (encodeKernel s.cfg .digits d 0 arg) s)

/-- ENCODE.ALARM_CLEAR (R221). -/
def execEncodeAlarmClear (s : State) : Host.Outcome State Fault Refusal :=
  .next (finishEncode .alarmClear (encodeKernel s.cfg .alarmClear 0 0 []) s)

/-- ENCODE.GENERIC16 (R222). -/
def execEncodeGeneric16 (value : Value) (s : State) : Host.Outcome State Fault Refusal :=
  .next (finishEncode .generic16 (encodeKernel s.cfg .generic16 0 value []) s)

/-- ENCODE.EMPTY (R223). -/
def execEncodeEmpty (s : State) : Host.Outcome State Fault Refusal :=
  .next (finishEncode .empty (encodeKernel s.cfg .empty 0 0 []) s)

end Sys2Proof.Machine
end

