-- ==== Sys2Proof/Machine/Table.lean ====
section
/-! DEFINITION. The register table: behaviour selection (spec/30_encoding.md R97), lookup (R99), and the checks a
configuration must pass (R98 and the legal values of spec/00_scope.md R8). -/

namespace Sys2Proof.Machine

/-- `beh(desc, dir, op)` (R97). -/
def behaviour (desc : Descriptor) (dir : WireDir) (op : RegOp) : Option Kind :=
  match dir, op with
  | .query, .read => desc.behQr
  | .query, .write => desc.behQw
  | .reply, .read => desc.behRr
  | .reply, .write => desc.behRw

/-- The first descriptor of a table with a register id, byte for byte (R99). -/
def findIn : List Descriptor → Bytes → Option Descriptor
  | [], _ => none
  | desc :: rest, id => if desc.regId = id then some desc else findIn rest id

/-- `find(id)` in the table of the instance (R99). -/
def findRegister (c : Config) (id : Bytes) : Option Descriptor := findIn c.regTable id

/-- The present behaviours of a descriptor. -/
def behavioursOf (desc : Descriptor) : List Kind :=
  [desc.behQr, desc.behQw, desc.behRr, desc.behRw].filterMap id

/-! ### The checks of R98 -/

/-- A register id is 9 bytes (R9, R96). -/
def wfRegId (c : Config) : Bool := c.regTable.all fun desc => desc.regId.length == 9

/-- WF-UNIQ: the register ids are pairwise distinct. -/
def wfUniq (c : Config) : Bool := decide ((c.regTable.map Descriptor.regId).Nodup)

/-- WF-LEN: every present behaviour's payload fits a frame of the buffer's capacity. -/
def wfLen (c : Config) : Bool :=
  c.regTable.all fun desc => (behavioursOf desc).all fun k => decide (dlen k desc.dparam ≤ c.cap - 21)

/-- WF-DPARAM: `dparam` is 0 unless some behaviour is DIGITS or ENUM. -/
def wfDparam (c : Config) : Bool :=
  c.regTable.all fun desc =>
    desc.dparam == 0 || (behavioursOf desc).any fun k => k == .digits || k == .enum

/-- WF-RANGE of one descriptor: a range belongs to a write query of a numeric kind and lies in its intrinsic range. -/
def rangeOk (desc : Descriptor) : Bool :=
  match desc.range, desc.behQw with
  | none, _ => true
  | some _, none => false
  | some (vmin, vmax), some k =>
    match intrinsicRange k desc.dparam with
    | none => false
    | some (lo, hi) => decide (vmin ≤ vmax ∧ lo ≤ vmin ∧ vmax ≤ hi)

/-- WF-RANGE. -/
def wfRange (c : Config) : Bool := c.regTable.all rangeOk

/-- WF-STATUS of one descriptor: a status register is reply-only and names an existing field. -/
def statusOk (c : Config) (desc : Descriptor) : Bool :=
  match desc.statusField with
  | none => true
  | some f =>
    decide (f < c.nstatus) && desc.behRr.isSome && desc.behQr.isNone && desc.behQw.isNone && desc.behRw.isNone

/-- WF-STATUS. -/
def wfStatus (c : Config) : Bool := c.regTable.all (statusOk c)

/-- WF-STATUS-UNIQ: no two descriptors have the same status field. -/
def wfStatusUniq (c : Config) : Bool := decide ((c.regTable.filterMap Descriptor.statusField).Nodup)

/-- WF-RT of one descriptor: a present query-write and a present reply-write behaviour are equal. -/
def roundTripOk (desc : Descriptor) : Bool :=
  match desc.behQw, desc.behRw with
  | some k, some k' => k == k'
  | _, _ => true

/-- WF-RT. -/
def wfRoundTrip (c : Config) : Bool := c.regTable.all roundTripOk

/-! ### The legal values of R8 -/

/-- `21 ≤ CAP ≤ 65535` (R8). -/
def wfCap (c : Config) : Bool := decide (21 ≤ c.cap ∧ c.cap ≤ 65535)

/-- `DIR_QUERY ≠ DIR_REPLY` and `OP_READ ≠ OP_WRITE` (R8). -/
def wfDiscriminators (c : Config) : Bool := c.dirQuery != c.dirReply && c.opRead != c.opWrite

/-- `FREQ_DIV ≥ 1` and `YEAR_BASE ≤ 65535 − 255` (R8). -/
def wfScales (c : Config) : Bool := decide (1 ≤ c.freqDiv ∧ c.yearBase ≤ 65535 - 255)

/-- `GCAP_MAX ≤ 65535` and `NSTATUS ≤ 256` (R8). -/
def wfSizes (c : Config) : Bool := decide (c.gcapMax ≤ 65535 ∧ c.nstatus ≤ 256)

/-- A legal configuration: every parameter in its legal values (R8) and a well-formed table (R98). WF-KIND holds by
the type `Kind`, which has no reserved kind (log entry 8). -/
def configOk (c : Config) : Bool :=
  wfCap c && wfDiscriminators c && wfScales c && wfSizes c && wfRegId c && wfUniq c && wfLen c && wfDparam c
    && wfRange c && wfStatus c && wfStatusUniq c && wfRoundTrip c

/-- Instance creation: the reset state of a legal configuration; the model refuses to build an instance from any
other (R98, R310, R313). -/
def State.create (c : Config) : Host.Outcome State Fault Refusal :=
  if configOk c then .next (State.initial c) else .refused .illegalConfig

end Sys2Proof.Machine
end

