-- ==== Sys2Proof/Machine/Frame.lean ====
section
/-! DEFINITION. The wire frame: its layout (spec/30_encoding.md R80, R81), the discriminators (R83, R84), and the frame
record (R100). -/

namespace Sys2Proof.Machine

/-- The declared payload length `P`: byte 9 (R81). Used on a sequence of at least 20 bytes. -/
def payloadLen (frame : Bytes) : Nat := (byteAt frame 9).toNat

/-- The believed total frame length `L = HDR_LEN + P + 1` (R81). -/
def frameLen (frame : Bytes) : Nat := hdrLen + payloadLen frame + 1

/-- The register id: bytes 11 to 19 (R80). -/
def frameRegId (frame : Bytes) : Bytes := sliceOf frame 11 20

/-- The payload: bytes `20 .. 20 + P` (R80). -/
def framePayload (frame : Bytes) : Bytes := sliceOf frame 20 (20 + payloadLen frame)

/-- The checksum byte: byte `20 + P` (R80). -/
def frameCrc (frame : Bytes) : Byte := byteAt frame (20 + payloadLen frame)

/-- The direction the direction byte names, `none` when it matches neither known pattern (R83). -/
def wireDir (c : Config) (b : Byte) : Option WireDir :=
  if b = c.dirQuery then some .query else if b = c.dirReply then some .reply else none

/-- The op the op byte names, `none` for any other value (R84). -/
def wireOp (c : Config) (b : Byte) : Option RegOp :=
  if b = c.opRead then some .read else if b = c.opWrite then some .write else none

/-- The provenance of a received frame's direction (R89). -/
def receivedDirection : WireDir → Direction
  | .query => .incomingQuery
  | .reply => .reply

/-- The frame record of a frame, with the direction its provenance gives (R100). -/
def frameRecordAs (c : Config) (direction : Option Direction) (frame : Bytes) : FrameRecord :=
  { dst := sliceOf frame 0 4
    src := sliceOf frame 4 8
    dirByte := byteAt frame 8
    lenByte := byteAt frame 9
    opByte := byteAt frame 10
    regId := frameRegId frame
    payload := framePayload frame
    crc := frameCrc frame
    direction := direction
    op := wireOp c (byteAt frame 10) }

/-- The frame record of a received frame (R100). -/
def frameRecord (c : Config) (frame : Bytes) : FrameRecord :=
  frameRecordAs c ((wireDir c (byteAt frame 8)).map receivedDirection) frame

end Sys2Proof.Machine
end

