-- ==== Sys2Proof/Machine/Process.lean ====
section
/-! DEFINITION. The frame assembler, the register dispatch and the status projection (spec/42_assembler.md R140 to
R155): PROCESS and PROCESS.NC. -/

namespace Sys2Proof.Machine

/-- What steps 5 and 6 of R155 find out about a CRC-valid frame: the result record, and the status field to write
with its new entry, if there is one. -/
structure DispatchOut where
  out   : Result
  write : Option (Nat × StatusEntry)
deriving DecidableEq, Repr

/-- The class of a frame of a known register (R149). -/
def classOfDir : WireDir → FrameClass
  | .query => .query
  | .reply => .reply

/-- The status field a successful decode is projected into: a reply's `status_field` (R152). -/
def projectedField (desc : Descriptor) : WireDir → Option Nat
  | .query => none
  | .reply => desc.statusField

/-- Decode dispatch and status projection of a frame of a known register with behaviour `k` (R151, R152). -/
def dispatchDecode (c : Config) (desc : Descriptor) (dir : WireDir) (k : Kind) (frame : Bytes) : DispatchOut :=
  let base : Result :=
    { resClass := classOfDir dir, kind := kindCode k, frame := some (frameRecord c frame) }
  match decodeKernel c k desc.dparam (framePayload frame) with
  | .fault cause => { out := { base with disp := .decodeFault, cause := causeOf cause }, write := none }
  | .ok v bs =>
    { out := { base with disp := .ok, value := v, bytes := bs, valid := true, field := projectedField desc dir },
      write := (projectedField desc dir).map fun f => (f, { kind := k, value := v, bytes := bs }) }

/-- Steps 5 of R155 for a CRC-valid frame: discriminators (R147), lookup (R148), class (R149), behaviour (R150),
decode and projection (R151, R152). -/
def dispatchFrame (c : Config) (frame : Bytes) : DispatchOut :=
  let fr := frameRecord c frame
  match wireDir c (byteAt frame 8), wireOp c (byteAt frame 10) with
  | some dir, some op =>
    match findRegister c (frameRegId frame) with
    | none => { out := { resClass := .unknown, disp := .noRegister, frame := some fr }, write := none }
    | some desc =>
      match behaviour desc dir op with
      | none => { out := { resClass := classOfDir dir, disp := .unsupported, frame := some fr }, write := none }
      | some k => dispatchDecode c desc dir k frame
  | _, _ => { out := { resClass := .unknown, disp := .badDiscriminator, frame := some fr }, write := none }

/-- Step 6 of R155: with `c = 0` the frame is consumed, with `c = 1` it stays and `EXPLEN <- some L` (R153). -/
def finishFrame (noClear : Bool) (len : Nat) (s : State) : State :=
  if noClear then { s with expLen := some len } else s.removeFront len

/-- The whole PROCESS step on the buffer content `buf` (R155). -/
def processStep (noClear : Bool) (buf : Bytes) (s : State) : State :=
  if buf.length < hdrLen then s.result {}
  else
    let len := frameLen buf
    if s.cfg.cap < len then
      ((s.grab hdrLen buf).removeFront 1).result { resClass := .corrupted, cause := .header }
    else if buf.length < len then
      ({ s with expLen := some len } : State).result {}
    else
      let g := s.grab len buf
      if crc8 s.cfg buf 0 (len - 1) ≠ byteAt buf (len - 1) then
        (g.removeFront len).result { resClass := .corrupted, cause := .crc }
      else
        let d := dispatchFrame s.cfg (buf.take len)
        (finishFrame noClear len (g.project d.write)).result d.out

/-- One PROCESS step in a state: it reads `BUF`, and runs the step on it (R140, R155). A buffered byte without a
value is a fault (log entry 4). -/
def processIn (noClear : Bool) (s : State) : Host.Outcome State Fault Refusal :=
  match s.buf with
  | some buf => .next (processStep noClear buf s)
  | none => .fault .unspecifiedByte

/-- PROCESS: one step with `c = 0` (R140). -/
def execProcess (s : State) : Host.Outcome State Fault Refusal := processIn false s

/-- PROCESS.NC: one step with `c = 1` (R140). -/
def execProcessNc (s : State) : Host.Outcome State Fault Refusal := processIn true s

end Sys2Proof.Machine
end

