-- ==== Sys2Proof/Machine/Readout.lean ====
section
/-! DEFINITION. The readout commands (spec/46_config_readout.md R259 to R261): READ_STATUS, READ_GRAB, READ_STATE. They
change no state (spec/20_memory.md R59). -/

namespace Sys2Proof.Machine

/-- The result of reading status field `i` with content `e` (R259). -/
def statusResult (i : Nat) (e : Option StatusEntry) : Result :=
  match e with
  | none => { valid := false, field := some i }
  | some e => { valid := true, value := e.value, bytes := e.bytes, kind := kindCode e.kind, field := some i }

/-- READ_STATUS i: read one status snapshot field (R259). -/
def execReadStatus (i : Byte) (s : State) : Host.Outcome State Fault Refusal :=
  if s.cfg.nstatus ≤ i.toNat then .next (s.raise .badOperand .none)
  else .next (s.result (statusResult i.toNat (s.status[i.toNat]?.join)))

/-- `GRAB_STORE[0..GRAB_LEN)` (R33), `none` where a byte of it has no value. -/
def State.grabBytes (s : State) : Option Bytes := Memory.readBytes s.grabStore 0 s.grabLen

/-- READ_GRAB: read the last grabbed frame (R260). A byte of the prefix without a value is a fault (log entry 4). -/
def execReadGrab (s : State) : Host.Outcome State Fault Refusal :=
  match s.grabBytes with
  | some bs => .next (s.result { valid := true, value := packHalves s.grabCap s.grabLen, bytes := bs })
  | none => .fault .unspecifiedByte

/-- EXPLEN as a number, 0 for `none` (R13, R27). -/
def expLenNumber (s : State) : Nat := s.expLen.getD 0

/-- `[HP_ADDR_VALID + 2·CTRL_ADDR_VALID + 4·GRAB_EN]` (R261). -/
def configByte (s : State) : Byte :=
  BitVec.ofNat 8 (s.hpAddrValid.toNat + 2 * s.ctrlAddrValid.toNat + 4 * s.grabEn.toNat)

/-- READ_STATE: read the assembler's progress and the configuration bits (R261). -/
def execReadState (s : State) : Host.Outcome State Fault Refusal :=
  .next (s.result { valid := true, value := packHalves (expLenNumber s) s.fill, bytes := [configByte s] })

end Sys2Proof.Machine
end

