-- ==== Sys2Proof/Machine/Submit.lean ====
section
/-! DEFINITION. The command path (spec/45_command_path.md R240 to R244): SUBMIT.READ and SUBMIT.WRITE. -/

namespace Sys2Proof.Machine

/-- Why SUBMIT refuses a request: a status and its cause (R241). -/
structure SubmitRefusal where
  code  : StatusCode
  cause : Cause
deriving DecidableEq, Repr

/-- A request that passed steps 2 to 7 of R241: the behaviour's kind and the encoded payload. -/
structure SubmitPlan where
  kind    : Kind
  payload : Bytes
deriving DecidableEq, Repr

/-- What the request checks answer. -/
inductive SubmitCheck where
  | plan (p : SubmitPlan)
  | refuse (r : SubmitRefusal)
deriving DecidableEq, Repr

/-- The op byte of an outgoing frame (R242). -/
def opByteOf (c : Config) : RegOp → Byte
  | .read => c.opRead
  | .write => c.opWrite

/-- Step 7 of R241: the descriptor range, only for WRITE (R224). -/
def rangeStep (op : RegOp) (desc : Descriptor) (k : Kind) (value : Value) (payload : Bytes) : SubmitCheck :=
  match op with
  | .read => .plan { kind := k, payload := payload }
  | .write =>
    if inDescriptorRange desc.range k value then .plan { kind := k, payload := payload }
    else .refuse { code := .encodeFault, cause := .range }

/-- Steps 5 to 7 of R241 for a register with behaviour `k`. -/
def encodeStep (c : Config) (op : RegOp) (desc : Descriptor) (k : Kind) (tail : Bytes) (value : Value) : SubmitCheck :=
  if tail ≠ [] ∧ k ≠ .digits then .refuse { code := .badOperand, cause := .none }
  else
    match encodeKernel c k desc.dparam value tail with
    | .fault cause => .refuse { code := .encodeFault, cause := causeOf cause }
    | .ok payload => rangeStep op desc k value payload

/-- Steps 2 to 7 of R241, in their order. -/
def submitCheck (c : Config) (op : RegOp) (arg : Bytes) (value : Value) : SubmitCheck :=
  if arg.length < 9 then .refuse { code := .badOperand, cause := .none }
  else
    match findRegister c (submitRid arg) with
    | none => .refuse { code := .noRegister, cause := .none }
    | some desc =>
      match behaviour desc .query op with
      | none => .refuse { code := .unsupported, cause := .none }
      | some k => encodeStep c op desc k (submitTail arg) value

/-- The header and payload `f` of an outgoing frame (R242). -/
def outgoingBody (s : State) (op : RegOp) (rid payload : Bytes) : Bytes :=
  s.hpAddr.toBytes ++ s.ctrlAddr.toBytes
    ++ [s.cfg.dirQuery, BitVec.ofNat 8 payload.length, opByteOf s.cfg op] ++ rid ++ payload

/-- The whole outgoing frame, with its checksum stamped (R86, R135, R242). -/
def outgoingFrame (s : State) (op : RegOp) (rid payload : Bytes) : Bytes :=
  let f := outgoingBody s op rid payload
  f ++ [crc8 s.cfg f 0 f.length]

/-- The result of a successful SUBMIT (R242). -/
def submitResult (c : Config) (k : Kind) (frame : Bytes) : Result :=
  { value := BitVec.ofNat 32 frame.length, valid := true, bytes := frame, kind := kindCode k,
    frame := some (frameRecordAs c (some .outgoingQuery) frame) }

/-- SUBMIT: the checks of R241, the address check last, then the frame build of R242. -/
def submit (op : RegOp) (arg : Bytes) (value : Value) (s : State) : State :=
  match submitCheck s.cfg op arg value with
  | .refuse r => s.raise r.code r.cause
  | .plan p =>
    if s.hpAddrValid && s.ctrlAddrValid then
      let frame := outgoingFrame s op (submitRid arg) p.payload
      (s.emitTx frame).result (submitResult s.cfg p.kind frame)
    else s.raise .addrUnset .none

/-- SUBMIT.READ: build and emit a read query (R243). -/
def execSubmitRead (arg : Bytes) (value : Value) (s : State) : Host.Outcome State Fault Refusal :=
  .next (submit .read arg value s)

/-- SUBMIT.WRITE: build and emit a write query (R244). -/
def execSubmitWrite (arg : Bytes) (value : Value) (s : State) : Host.Outcome State Fault Refusal :=
  .next (submit .write arg value s)

end Sys2Proof.Machine
end

