-- ==== Sys2Proof/Machine/Dispatch.lean ====
section
/-! DEFINITION. The dispatch of a decoded command to its meaning: one arm per row of spec/opcode_table.json. -/

namespace Sys2Proof.Machine

/-- The meaning of a command (spec/30_encoding.md R72). -/
def exec (i : Instr) (s : State) : Host.Outcome State Fault Refusal :=
  match i with
  | .nop => Sys2Proof.Machine.execNop s
  | .append arg => Sys2Proof.Machine.execAppend arg s
  | .process => Sys2Proof.Machine.execProcess s
  | .processNc => Sys2Proof.Machine.execProcessNc s
  | .consume n => Sys2Proof.Machine.execConsume n s
  | .resetBuf => Sys2Proof.Machine.execResetBuf s
  | .crc8 arg value => Sys2Proof.Machine.execCrc8 arg value s
  | .decodeTemp16 arg => Sys2Proof.Machine.execDecodeTemp16 arg s
  | .decodeTemp8 arg => Sys2Proof.Machine.execDecodeTemp8 arg s
  | .decodeFreq16 arg => Sys2Proof.Machine.execDecodeFreq16 arg s
  | .decodePercent arg => Sys2Proof.Machine.execDecodePercent arg s
  | .decodeTimeHm arg => Sys2Proof.Machine.execDecodeTimeHm arg s
  | .decodeDateDmy arg => Sys2Proof.Machine.execDecodeDateDmy arg s
  | .decodeFlag arg => Sys2Proof.Machine.execDecodeFlag arg s
  | .decodeEnum d arg => Sys2Proof.Machine.execDecodeEnum d arg s
  | .decodeDigits d arg => Sys2Proof.Machine.execDecodeDigits d arg s
  | .decodeAlarmClear arg => Sys2Proof.Machine.execDecodeAlarmClear arg s
  | .decodeGeneric16 arg => Sys2Proof.Machine.execDecodeGeneric16 arg s
  | .decodeEmpty arg => Sys2Proof.Machine.execDecodeEmpty arg s
  | .encodeTemp16 value => Sys2Proof.Machine.execEncodeTemp16 value s
  | .encodeTemp8 value => Sys2Proof.Machine.execEncodeTemp8 value s
  | .encodeFreq16 value => Sys2Proof.Machine.execEncodeFreq16 value s
  | .encodePercent value => Sys2Proof.Machine.execEncodePercent value s
  | .encodeTimeHm value => Sys2Proof.Machine.execEncodeTimeHm value s
  | .encodeDateDmy value => Sys2Proof.Machine.execEncodeDateDmy value s
  | .encodeFlag value => Sys2Proof.Machine.execEncodeFlag value s
  | .encodeEnum d value => Sys2Proof.Machine.execEncodeEnum d value s
  | .encodeDigits d arg => Sys2Proof.Machine.execEncodeDigits d arg s
  | .encodeAlarmClear => Sys2Proof.Machine.execEncodeAlarmClear s
  | .encodeGeneric16 value => Sys2Proof.Machine.execEncodeGeneric16 value s
  | .encodeEmpty => Sys2Proof.Machine.execEncodeEmpty s
  | .submitRead arg value => Sys2Proof.Machine.execSubmitRead arg value s
  | .submitWrite arg value => Sys2Proof.Machine.execSubmitWrite arg value s
  | .setAddrHp arg => Sys2Proof.Machine.execSetAddrHp arg s
  | .setAddrCtrl arg => Sys2Proof.Machine.execSetAddrCtrl arg s
  | .setGrabOff => Sys2Proof.Machine.execSetGrabOff s
  | .setGrabOn value => Sys2Proof.Machine.execSetGrabOn value s
  | .readStatus n => Sys2Proof.Machine.execReadStatus n s
  | .readGrab => Sys2Proof.Machine.execReadGrab s
  | .readState => Sys2Proof.Machine.execReadState s

end Sys2Proof.Machine
end

