-- ==== Sys2Proof/Machine/Port.lean ====
section
/-! DEFINITION. The command port (spec/30_encoding.md R70, R74) and the external reset (spec/70_reset_and_hazards.md
R310): what a step does with the next host event. -/

namespace Sys2Proof.Machine

/-- Take a command from the port: decode it and run its meaning. A word that matches no row ends the command with
ILLEGAL_CMD (R74, R283). A triple whose ARG is longer than the port carries is no command and is refused (R70; log
entry 6). -/
def runCommand (run : Instr → State → Host.Outcome State Fault Refusal) (c : Command) (s : State) :
    Host.Outcome State Fault Refusal :=
  match decode c with
  | .instr i => run i s
  | .rejected .illegalCmd => .next (s.raise .illegalCmd .none)
  | .rejected .argTooLong => .refused .argTooLong

/-- The external reset (R310, R311): every state element takes its reset value. The host's own side of the port stays
with the host: the events not yet taken and the record of the results it was given (log entry 7). -/
def takeReset (s : State) : State :=
  { State.initial s.cfg with inputs := s.inputs.tail, results := s.results }

end Sys2Proof.Machine
end

