-- ==== Sys2Proof/Machine/Step.lean ====
section
/-! DEFINITION. One step of CZ-FA: take the next host event and run it (spec/00_scope.md R6; log entry 1). -/

namespace Sys2Proof.Machine

/-- One step. With nothing issued nothing happens (R292). A command is decoded and runs to its result (R6, R58); a
command word that matches no row ends with ILLEGAL_CMD and no state change (R74, R283). An external reset is taken
between commands (R310). -/
def step (s : State) : Host.Outcome State Fault Refusal :=
  match s.inputs with
  | [] => .next s
  | .reset :: _ => .next (takeReset s)
  | .command c :: _ => runCommand exec c s

/-- The state with the command of an opcode-table word placed as the next one the host issues: `w` on CMD, ARG empty
and VALUE zero (log entry 1). -/
def State.withFetchWord (s : State) (_nbits w : Nat) : State :=
  { s with inputs := .command { cmd := BitVec.ofNat 16 w, arg := [], value := 0 } :: s.inputs }

end Sys2Proof.Machine
end

