-- ==== Sys2Proof/Safety.lean ====
section
/-! DEFINITION. The terms the claims about CZ-FA use: the invariant of a legal instance (spec/10_state.md R23 to R36),
what the status file and TX hold, what can be observed (spec/70_reset_and_hazards.md R323), and the host's drain and
re-offer of spec/42_assembler.md R160. -/

namespace Sys2Proof.Machine

/-! ### The invariant of a legal instance -/

/-- What every state of a legal instance satisfies: the configuration is legal (R98), the stores list exactly their
meaningful prefixes (R24, R33), the counts are in their ranges (R25, R32, R34), EXPLEN mirrors the buffered header
(R28), and the status file has NSTATUS fields (R35). -/
structure State.Inv (s : State) : Prop where
  /-- The configuration is legal (R8, R98). -/
  config    : configOk s.cfg = true
  /-- BUFSTORE gives a value to exactly the indices below FILL (R24). -/
  bufKeys   : s.bufStore.map Prod.fst = List.range s.fill
  /-- `FILL ≤ CAP` (R25). -/
  fillLe    : s.fill ≤ s.cfg.cap
  /-- `EXPLEN = some L` implies `FILL ≥ HDR_LEN`, `L = HDR_LEN + BUF[9] + 1` and `L ≤ CAP` (R28). -/
  expLen    : ∀ len, s.expLen = some len →
    hdrLen ≤ s.fill ∧ (∃ p, Memory.read s.bufStore 9 = some p ∧ len = hdrLen + p.toNat + 1) ∧ len ≤ s.cfg.cap
  /-- GRAB_STORE gives a value to exactly the indices below GRAB_LEN (R33). -/
  grabKeys  : s.grabStore.map Prod.fst = List.range s.grabLen
  /-- `GRAB_LEN ≤ GRAB_CAP` (R34). -/
  grabLenLe : s.grabLen ≤ s.grabCap
  /-- `GRAB_CAP ≤ GCAP_MAX` (R32). -/
  grabCapLe : s.grabCap ≤ s.cfg.gcapMax
  /-- The status file has NSTATUS fields (R35). -/
  statusLen : s.status.length = s.cfg.nstatus

/-- A written status field holds what a status register feeding that field can hold: the kind of its reply-read
behaviour, and a legal value of that kind (R35, R93, R152). -/
def State.StatusLegal (s : State) : Prop :=
  ∀ f e, s.status[f]? = some (some e) →
    ∃ desc ∈ s.cfg.regTable, desc.statusField = some f ∧ desc.behRr = some e.kind ∧
      legalValue s.cfg e.kind desc.dparam e.value e.bytes = true

/-- A frame that CZ-FA may hand to the transport: its length byte gives its length, it fits the buffer, it is a query
for a register of the table, and its checksum byte is the CRC-8 of all bytes before it (R80 to R86, R242). -/
structure ValidOutgoing (c : Config) (f : Bytes) : Prop where
  /-- The length is `21 + P` for the declared length `P` (R81, R82). -/
  length   : f.length = frameLen f
  /-- The frame can be received (R82, R98 WF-LEN). -/
  fits     : f.length ≤ c.cap
  /-- The direction byte is DIR_QUERY (R242). -/
  query    : byteAt f 8 = c.dirQuery
  /-- The op byte is OP_READ or OP_WRITE (R242). -/
  op       : byteAt f 10 = c.opRead ∨ byteAt f 10 = c.opWrite
  /-- The register is in the table (R241). -/
  register : ∃ desc ∈ c.regTable, desc.regId = (f.drop 11).take 9
  /-- The checksum is stamped (R135). -/
  stamped  : byteAt f (f.length - 1) = crc8 c f 0 (f.length - 1)

/-- Every frame in TX is a valid outgoing frame. -/
def State.TxValid (s : State) : Prop := ∀ f ∈ s.tx, ValidOutgoing s.cfg f

/-! ### A legal configuration, spelled out -/

/-- The legal values of R8 and the checks of R98, each in its own words. WF-KIND holds by the type `Kind`. -/
structure LegalConfig (c : Config) : Prop where
  cap            : 21 ≤ c.cap ∧ c.cap ≤ 65535
  directions     : c.dirQuery ≠ c.dirReply
  ops            : c.opRead ≠ c.opWrite
  freqDiv        : 1 ≤ c.freqDiv
  yearBase       : c.yearBase ≤ 65535 - 255
  gcapMax        : c.gcapMax ≤ 65535
  nstatus        : c.nstatus ≤ 256
  /-- A register id is 9 bytes (R9, R96). -/
  idLength       : ∀ desc ∈ c.regTable, desc.regId.length = 9
  /-- WF-UNIQ. -/
  uniq           : c.regTable.Pairwise fun x y => x.regId ≠ y.regId
  /-- WF-LEN. -/
  len            : ∀ desc ∈ c.regTable, ∀ k, (desc.behQr = some k ∨ desc.behQw = some k ∨ desc.behRr = some k ∨
    desc.behRw = some k) → dlen k desc.dparam + 21 ≤ c.cap
  /-- WF-DPARAM. -/
  dparam         : ∀ desc ∈ c.regTable, desc.dparam ≠ 0 → ∃ k, (k = .digits ∨ k = .enum) ∧
    (desc.behQr = some k ∨ desc.behQw = some k ∨ desc.behRr = some k ∨ desc.behRw = some k)
  /-- WF-RANGE. -/
  range          : ∀ desc ∈ c.regTable, ∀ vmin vmax, desc.range = some (vmin, vmax) →
    ∃ k lo hi, desc.behQw = some k ∧ intrinsicRange k desc.dparam = some (lo, hi) ∧
      vmin ≤ vmax ∧ lo ≤ vmin ∧ vmax ≤ hi
  /-- WF-STATUS. -/
  status         : ∀ desc ∈ c.regTable, ∀ f, desc.statusField = some f →
    f < c.nstatus ∧ desc.behRr ≠ none ∧ desc.behQr = none ∧ desc.behQw = none ∧ desc.behRw = none
  /-- WF-STATUS-UNIQ. -/
  statusUniq     : c.regTable.Pairwise fun x y => ∀ f, ¬(x.statusField = some f ∧ y.statusField = some f)
  /-- WF-RT. -/
  roundTrip      : ∀ desc ∈ c.regTable, ∀ k k', desc.behQw = some k → desc.behRw = some k' → k = k'

/-! ### What a command answers -/

/-- The state in which a command has returned the record `r` and changed nothing else: the command has left the port
and its record is the last one. -/
def returns (s : State) (r : Result) : State :=
  { s with inputs := s.inputs.tail, results := s.results ++ [r] }

/-- The state in which a command was refused: a status and a cause, every other field of the record at its default,
and no state changed (R73, R293). -/
def refuses (s : State) (code : StatusCode) (cause : Cause) : State :=
  returns s { status := code, cause := cause }

/-- The command word `cmd` is decoded to the instruction `i`, whatever the operand channels carry (R70, R78). -/
def TakesWord (cmd : CmdWord) (i : Bytes → Value → Instr) : Prop :=
  ∀ (a : Bytes) (v : Value), a.length ≤ maxArgLen → decode ⟨cmd, a, v⟩ = .instr (i a v)

/-- Every word of the opcode `opc` other than `cmd` is illegal (R74). -/
def IllegalElsewhere (opc : BitVec 4) (cmd : CmdWord) : Prop :=
  ∀ c : Command, c.arg.length ≤ maxArgLen → opcOf c.cmd = opc → c.cmd ≠ cmd → decode c = .rejected .illegalCmd

/-- Every word of the opcode `opc` with a non-zero SEL is illegal (R74). -/
def IllegalSel (opc : BitVec 4) : Prop :=
  ∀ c : Command, c.arg.length ≤ maxArgLen → opcOf c.cmd = opc → selOf c.cmd ≠ 0 → decode c = .rejected .illegalCmd

/-- The kernel of kind `k` decodes `p` to `ok(v, bs)`, and the DECODE command `i` returns that (R182). -/
def DecodesTo (s : State) (i : Instr) (k : Kind) (d : Byte) (p : Bytes) (v : Value) (bs : Bytes) : Prop :=
  decodeKernel s.cfg k d p = .ok v bs ∧
    exec i s = .next (returns s { value := v, bytes := bs, kind := kindCode k, valid := true })

/-- The kernel of kind `k` answers `fault(LENGTH)` for `p`, and the DECODE command `i` refuses so (R182, R285). -/
def DecodeLengthFault (s : State) (i : Instr) (k : Kind) (d : Byte) (p : Bytes) : Prop :=
  decodeKernel s.cfg k d p = .fault .length ∧ exec i s = .next (refuses s .decodeFault .length)

/-- The kernel of kind `k` answers `fault(RANGE)` for `p`, and the DECODE command `i` refuses so (R182, R285). -/
def DecodeRangeFault (s : State) (i : Instr) (k : Kind) (d : Byte) (p : Bytes) : Prop :=
  decodeKernel s.cfg k d p = .fault .range ∧ exec i s = .next (refuses s .decodeFault .range)

/-- The kernel of kind `k` encodes its operands to the payload `pl`, and the ENCODE command `i` returns that (R211). -/
def EncodesTo (s : State) (i : Instr) (k : Kind) (d : Byte) (v : Value) (bs pl : Bytes) : Prop :=
  encodeKernel s.cfg k d v bs = .ok pl ∧
    exec i s = .next (returns s { bytes := pl, kind := kindCode k, valid := true })

/-- The kernel of kind `k` answers `fault(RANGE)`, and the ENCODE command `i` refuses so (R211, R286). -/
def EncodeRangeFault (s : State) (i : Instr) (k : Kind) (d : Byte) (v : Value) (bs : Bytes) : Prop :=
  encodeKernel s.cfg k d v bs = .fault .range ∧ exec i s = .next (refuses s .encodeFault .range)

/-- The kernel of kind `k` answers `fault(LENGTH)`, and the ENCODE command `i` refuses so (R211, R286). -/
def EncodeLengthFault (s : State) (i : Instr) (k : Kind) (d : Byte) (v : Value) (bs : Bytes) : Prop :=
  encodeKernel s.cfg k d v bs = .fault .length ∧ exec i s = .next (refuses s .encodeFault .length)

/-- The VALUE word a decode gives back for an encoded one: the word itself, and 0 for the kinds whose value is not in
the word (R93, R225). -/
def decodedBack (k : Kind) (v : Value) : Value :=
  if k = .digits ∨ k = .alarmClear ∨ k = .empty then 0 else v

/-- The bytes a decode gives back for encoded ones: the bytes of DIGITS, and none for every other kind (R225). -/
def bytesBack (k : Kind) (bs : Bytes) : Bytes := if k = .digits then bs else []

/-! ### The checksum, spelled on numbers from R130 to R132

The model computes with bit vectors (Machine/Crc.lean); what follows uses none of its functions. -/

/-- One shift of R130: `if c[7] = 1: ((c << 1) mod 256) XOR CRC_POLY, else (c << 1) mod 256`. -/
def shiftMsb (poly c : Nat) : Nat :=
  if c / 128 % 2 = 1 then (2 * c % 256) ^^^ poly else 2 * c % 256

/-- The bits of a byte in reverse order (R131). -/
def reversedByte (x : Nat) : Nat :=
  128 * (x % 2) + 64 * (x / 2 % 2) + 32 * (x / 4 % 2) + 16 * (x / 8 % 2) + 8 * (x / 16 % 2) + 4 * (x / 32 % 2)
    + 2 * (x / 64 % 2) + x / 128 % 2

/-- One shift of R131: `if c[0] = 1: (c >> 1) XOR rev8(CRC_POLY), else c >> 1`. -/
def shiftLsb (poly c : Nat) : Nat :=
  if c % 2 = 1 then (c / 2) ^^^ reversedByte poly else c / 2

/-- The eight shifts that follow the XOR with an input byte (R130, R131). -/
def eightShifts (shift : Nat → Nat) (c : Nat) : Nat :=
  shift (shift (shift (shift (shift (shift (shift (shift c)))))))

/-- The checksum of R132, by R130 for `CRC_REFLECT = false` and by R131 for `CRC_REFLECT = true`. -/
def checksumByRules (c : Config) (bs : Bytes) : Nat :=
  (if c.crcReflect then
    bs.foldl (fun r b => eightShifts (shiftLsb c.crcPoly.toNat) (r ^^^ b.toNat)) (reversedByte c.crcInit.toNat)
  else bs.foldl (fun r b => eightShifts (shiftMsb c.crcPoly.toNat) (r ^^^ b.toNat)) c.crcInit.toNat)
    ^^^ c.crcXorOut.toNat

/-! ### Discriminators, registers and behaviours, in the spec's own words

What follows uses none of the model's lookup functions (Machine/Frame.lean, Machine/Table.lean). -/

/-- The direction byte `b` names the direction `dir` (R83, R155). -/
abbrev NamesDirection (c : Config) (b : Byte) (dir : WireDir) : Prop :=
  (dir = .query ∧ b = c.dirQuery) ∨ (dir = .reply ∧ b = c.dirReply ∧ b ≠ c.dirQuery)

/-- The op byte `b` names the op `op` (R84, R155). -/
abbrev NamesOp (c : Config) (b : Byte) (op : RegOp) : Prop :=
  (op = .read ∧ b = c.opRead) ∨ (op = .write ∧ b = c.opWrite ∧ b ≠ c.opRead)

/-- `desc` is the one descriptor of the table whose `reg_id` is `id`, byte for byte (R99). -/
abbrev TheRegister (c : Config) (id : Bytes) (desc : Descriptor) : Prop :=
  desc ∈ c.regTable ∧ desc.regId = id ∧ ∀ d ∈ c.regTable, d.regId = id → d = desc

/-- The behaviour of `desc` for a direction and an op is `k`: `beh_qr`, `beh_qw`, `beh_rr` or `beh_rw` (R97). -/
abbrev HasBehaviour (desc : Descriptor) (dir : WireDir) (op : RegOp) (k : Option Kind) : Prop :=
  (dir = .query ∧ op = .read ∧ desc.behQr = k) ∨ (dir = .query ∧ op = .write ∧ desc.behQw = k) ∨
    (dir = .reply ∧ op = .read ∧ desc.behRr = k) ∨ (dir = .reply ∧ op = .write ∧ desc.behRw = k)

/-! ### PROCESS -/

/-- The PROCESS command of a mode: PROCESS.NC for `no_clear` (R140). -/
def processCmd (noClear : Bool) : Instr := if noClear then .processNc else .process

/-- The buffer holds a whole frame at its front: `HDR_LEN ≤ FILL`, `L ≤ CAP` and `L ≤ FILL` (R142 to R145). -/
structure WholeFrame (s : State) (b : Bytes) : Prop where
  buf      : s.buf = some b
  header   : hdrLen ≤ b.length
  fits     : frameLen b ≤ s.cfg.cap
  complete : frameLen b ≤ b.length

/-- The checksum of the frame at the front of `b` matches (R134, R145). -/
def CrcMatches (c : Config) (b : Bytes) : Prop :=
  crcOf c (b.take (frameLen b - 1)) = byteAt b (frameLen b - 1)

/-- What a PROCESS step does with a CRC-valid frame beside the status file (R153, R154): it returns the record `r`,
grabs the frame, and consumes it or keeps it with `EXPLEN = some L`; every other state element stays. -/
structure ProcessesFrame (noClear : Bool) (s : State) (b : Bytes) (r : Result) (t : State) : Prop where
  next     : exec (processCmd noClear) s = .next t
  consumed : noClear = false → t.buf = some (b.drop (frameLen b)) ∧ t.fill = s.fill - frameLen b ∧ t.expLen = none
  kept     : noClear = true → t.bufStore = s.bufStore ∧ t.fill = s.fill ∧ t.expLen = some (frameLen b)
  frame    : t = { s.grab (frameLen b) b with
    bufStore := t.bufStore, fill := t.fill, expLen := t.expLen, status := t.status,
    inputs := s.inputs.tail, results := s.results ++ [r] }

/-! ### SUBMIT -/

/-- The SUBMIT command of an op (R240). -/
def submitCmd (op : RegOp) (arg : Bytes) (value : Value) : Instr :=
  match op with
  | .read => .submitRead arg value
  | .write => .submitWrite arg value

/-- The value of a write lies in the descriptor range; a read has no range (R224, R241 step 7). -/
def RangeHolds (op : RegOp) (desc : Descriptor) (k : Kind) (value : Value) : Prop :=
  op = .write → ∀ vmin vmax, desc.range = some (vmin, vmax) →
    vmin ≤ (if k = .temp16 ∨ k = .temp8 then value.toInt else (value.toNat : Int)) ∧
      (if k = .temp16 ∨ k = .temp8 then value.toInt else (value.toNat : Int)) ≤ vmax

/-! ### Observations -/

/-- What can be observed of a run that ends in a state (R323): the result records, TX, and the state as far as the
readout commands show it. -/
structure Observation where
  results       : List Result
  tx            : List Bytes
  fill          : Nat
  expLen        : Option Nat
  status        : List (Option StatusEntry)
  grab          : Option Bytes
  hpAddrValid   : Bool
  ctrlAddrValid : Bool
  grabEn        : Bool
  grabCap       : Nat
deriving DecidableEq, Repr

/-- The observation of a state (R323). -/
def State.observe (s : State) : Observation :=
  { results := s.results, tx := s.tx, fill := s.fill, expLen := s.expLen, status := s.status, grab := s.grabBytes,
    hpAddrValid := s.hpAddrValid, ctrlAddrValid := s.ctrlAddrValid, grabEn := s.grabEn, grabCap := s.grabCap }

/-- Two states that differ at most in what the spec calls unspecified: bytes of BUFSTORE at and above FILL, bytes of
GRAB_STORE at and above GRAB_LEN, and an address whose valid bit is 0 (R24, R29, R30, R33, R311). -/
structure SameButUnspecified (s t : State) : Prop where
  cfg       : s.cfg = t.cfg
  buffered  : ∀ a, a < s.fill → Memory.read s.bufStore a = Memory.read t.bufStore a
  fill      : s.fill = t.fill
  expLen    : s.expLen = t.expLen
  hpValid   : s.hpAddrValid = t.hpAddrValid
  hpAddr    : s.hpAddrValid = true → s.hpAddr = t.hpAddr
  ctrlValid : s.ctrlAddrValid = t.ctrlAddrValid
  ctrlAddr  : s.ctrlAddrValid = true → s.ctrlAddr = t.ctrlAddr
  grabEn    : s.grabEn = t.grabEn
  grabCap   : s.grabCap = t.grabCap
  grabbed   : ∀ a, a < s.grabLen → Memory.read s.grabStore a = Memory.read t.grabStore a
  grabLen   : s.grabLen = t.grabLen
  status    : s.status = t.status
  tx        : s.tx = t.tx
  inputs    : s.inputs = t.inputs
  results   : s.results = t.results

/-- Two outcomes of a step that agree but for what is unspecified. -/
def SameOutcome : Host.Outcome State Fault Refusal → Host.Outcome State Fault Refusal → Prop
  | .next s, .next t => SameButUnspecified s t
  | .fault f, .fault g => f = g
  | .refused r, .refused q => r = q
  | _, _ => False

/-! ### What a host sees of one command, and the drain of R160 -/

/-- The last result record of a state. -/
def State.lastResult (s : State) : Option Result := s.results.getLast?

/-- `drain` (R160): issue PROCESS with `c = 0` until a PFT_NONE is returned, at most `fuel` times; `none` if the fuel
runs out or a command stops. -/
def drain : Nat → State → Option State
  | 0, _ => none
  | fuel + 1, s =>
    match exec .process s with
    | .next t => if t.lastResult.map Result.resClass = some .none then some t else drain fuel t
    | _ => none

/-- APPEND a chunk, drain, and re-offer the bytes APPEND did not accept until all are accepted (R160), at most `fuel`
times. R159 bounds each drain by `FILL + 1` commands. -/
def offer : Nat → Bytes → State → Option State
  | 0, _, _ => none
  | fuel + 1, chunk, s =>
    match exec (.append chunk) s with
    | .next t =>
      match drain (t.fill + 1) t with
      | some u =>
        let rest := chunk.drop (t.fill - s.fill)
        if rest = [] then some u else offer fuel rest u
      | none => none
    | _ => none

/-- Deliver a byte stream cut into chunks (R160). -/
def deliver : List Bytes → State → Option State
  | [], s => some s
  | chunk :: chunks, s =>
    match offer (chunk.length + 1) chunk s with
    | some t => deliver chunks t
    | none => none

/-- The results after the first `n` whose class is not PFT_NONE (R160). -/
def State.frameResults (s : State) (n : Nat) : List Result :=
  (s.results.drop n).filter fun r => r.resClass != .none

end Sys2Proof.Machine
end

