-- ==== Sys2Proof/Certificates/Slice0/Obligations.lean ====
section
/-! DEFINITION. The statements about CZ-FA for the provers. OBLIGATIONS.json says which rule of spec/ each states. -/

open Sys2Proof Sys2Proof.Machine

/-! ### The command port: decoding, encoding, the step -/

/-- A command the port carries runs as its decoded instruction: `step` is `exec` of it at the same state, nothing
added (R6, R70, R72). That a command reaches the machine at the head of `inputs`, and that `withFetchWord` places its
word there with ARG empty and VALUE zero, is the model's choice (log entry 1). -/
def Obligations.StepRunsDecodedCommand : Prop :=
  (∀ (s : State) (c : Command) (rest : List HostEvent) (i : Instr),
    s.inputs = .command c :: rest → decode c = .instr i → step s = exec i s) ∧
  (∀ (s : State) (w : Nat) (i : Instr),
    decodeTableWord 16 w = some i → step (s.withFetchWord 16 w) = exec i (s.withFetchWord 16 w))

/-- The model's choice (log entries 1 and 7): with nothing issued a step changes nothing (R292), and an external reset
gives the reset state of the same configuration, the rest of the host's events and its record of results kept. -/
def Obligations.IdleAndExternalReset : Prop :=
  (∀ s : State, s.inputs = [] → step s = .next s) ∧
  (∀ (s : State) (rest : List HostEvent), s.inputs = .reset :: rest →
    step s = .next { State.initial s.cfg with inputs := rest, results := s.results })

/-- The rows of the opcode table are pairwise disjoint; a command word that matches a row decodes to an instruction of
that row, one that matches none ends with ILLEGAL_CMD, its record the only change, and the illegal words R74 lists are
such words (R74, R283). -/
def Obligations.UnmatchedWordIsIllegal : Prop :=
  opcodeTable.Pairwise (fun r q => ∀ w : CmdWord, ¬(r.matchesWord w = true ∧ q.matchesWord w = true)) ∧
  (∀ (c : Command) (row : OpcodeRow), c.arg.length ≤ maxArgLen → row ∈ opcodeTable → row.matchesWord c.cmd = true →
    ∃ i, decode c = .instr i ∧ i.mnemonic = row.mnemonic) ∧
  (∀ (s : State) (c : Command) (rest : List HostEvent), c.arg.length ≤ maxArgLen →
    s.inputs = .command c :: rest → (∀ row ∈ opcodeTable, row.matchesWord c.cmd = false) →
    decode c = .rejected .illegalCmd ∧
      step s = .next { s with inputs := rest, results := s.results ++ [{ status := .illegalCmd }] }) ∧
  (∀ cmd : CmdWord,
    (opcOf cmd = 0xE ∨ opcOf cmd = 0xF ∨
      (opcOf cmd ∈ [0x0, 0x1, 0x2, 0x3, 0x4, 0x5, 0xB, 0xC, 0xD] ∧ selOf cmd ≠ 0) ∨
      (opcOf cmd ∈ [0x0, 0x1, 0x4, 0x5, 0x8, 0x9, 0xA, 0xC, 0xD] ∧ immOf cmd ≠ 0) ∨
      (opcOf cmd ∈ [0x6, 0x7] ∧ selOf cmd ≠ 0x7 ∧ selOf cmd ≠ 0x8 ∧ immOf cmd ≠ 0) ∨
      (opcOf cmd ∈ [0x6, 0x7] ∧ 0xC ≤ (selOf cmd).toNat) ∨
      (opcOf cmd ∈ [0x8, 0x9, 0xA] ∧ 2 ≤ (selOf cmd).toNat) ∨
      (opcOf cmd = 0x2 ∧ 2 ≤ (immOf cmd).toNat)) →
    ∀ row ∈ opcodeTable, row.matchesWord cmd = false)

/-- Decoding what the encoder writes gives the instruction back, for every well-formed instruction with every operand
(R70, R72, R78). -/
def Obligations.DecodeOfEncode : Prop :=
  ∀ i : Instr, i.WellFormed → decode (encode i) = .instr i

/-- The command words of R78 decode to their commands, with the operand channels they name. -/
def Obligations.CommandWordsDecode : Prop :=
  ∀ (a : Bytes) (v : Value), a.length ≤ maxArgLen →
    (decode ⟨0x0000, a, v⟩ = .instr .nop ∧ decode ⟨0x1000, a, v⟩ = .instr (.append a) ∧
      decode ⟨0x2000, a, v⟩ = .instr .process ∧ decode ⟨0x2001, a, v⟩ = .instr .processNc ∧
      (∀ n : Byte, decode ⟨0x3000 + n.setWidth 16, a, v⟩ = .instr (.consume n)) ∧
      decode ⟨0x4000, a, v⟩ = .instr .resetBuf ∧ decode ⟨0x5000, a, v⟩ = .instr (.crc8 a v)) ∧
    (decode ⟨0x6000, a, v⟩ = .instr (.decodeTemp16 a) ∧ decode ⟨0x6100, a, v⟩ = .instr (.decodeTemp8 a) ∧
      decode ⟨0x6200, a, v⟩ = .instr (.decodeFreq16 a) ∧ decode ⟨0x6300, a, v⟩ = .instr (.decodePercent a) ∧
      decode ⟨0x6400, a, v⟩ = .instr (.decodeTimeHm a) ∧ decode ⟨0x6500, a, v⟩ = .instr (.decodeDateDmy a) ∧
      decode ⟨0x6600, a, v⟩ = .instr (.decodeFlag a) ∧
      (∀ d : Byte, decode ⟨0x6700 + d.setWidth 16, a, v⟩ = .instr (.decodeEnum d a)) ∧
      (∀ d : Byte, decode ⟨0x6800 + d.setWidth 16, a, v⟩ = .instr (.decodeDigits d a)) ∧
      decode ⟨0x6900, a, v⟩ = .instr (.decodeAlarmClear a) ∧ decode ⟨0x6A00, a, v⟩ = .instr (.decodeGeneric16 a) ∧
      decode ⟨0x6B00, a, v⟩ = .instr (.decodeEmpty a)) ∧
    (decode ⟨0x7000, a, v⟩ = .instr (.encodeTemp16 v) ∧ decode ⟨0x7100, a, v⟩ = .instr (.encodeTemp8 v) ∧
      decode ⟨0x7200, a, v⟩ = .instr (.encodeFreq16 v) ∧ decode ⟨0x7300, a, v⟩ = .instr (.encodePercent v) ∧
      decode ⟨0x7400, a, v⟩ = .instr (.encodeTimeHm v) ∧ decode ⟨0x7500, a, v⟩ = .instr (.encodeDateDmy v) ∧
      decode ⟨0x7600, a, v⟩ = .instr (.encodeFlag v) ∧
      (∀ d : Byte, decode ⟨0x7700 + d.setWidth 16, a, v⟩ = .instr (.encodeEnum d v)) ∧
      (∀ d : Byte, decode ⟨0x7800 + d.setWidth 16, a, v⟩ = .instr (.encodeDigits d a)) ∧
      decode ⟨0x7900, a, v⟩ = .instr .encodeAlarmClear ∧ decode ⟨0x7A00, a, v⟩ = .instr (.encodeGeneric16 v) ∧
      decode ⟨0x7B00, a, v⟩ = .instr .encodeEmpty) ∧
    (decode ⟨0x8000, a, v⟩ = .instr (.submitRead a v) ∧ decode ⟨0x8100, a, v⟩ = .instr (.submitWrite a v) ∧
      decode ⟨0x9000, a, v⟩ = .instr (.setAddrHp a) ∧ decode ⟨0x9100, a, v⟩ = .instr (.setAddrCtrl a) ∧
      decode ⟨0xA000, a, v⟩ = .instr .setGrabOff ∧ decode ⟨0xA100, a, v⟩ = .instr (.setGrabOn v) ∧
      (∀ n : Byte, decode ⟨0xB000 + n.setWidth 16, a, v⟩ = .instr (.readStatus n)) ∧
      decode ⟨0xC000, a, v⟩ = .instr .readGrab ∧ decode ⟨0xD000, a, v⟩ = .instr .readState)

/-! ### Incoming buffer commands -/

/-- NOP returns OK and changes no state; `ARG` and `VALUE` are ignored; any other word of its opcode is illegal
(R110). -/
def Obligations.NopChangesNothing : Prop :=
  (∀ (a : Bytes) (v : Value), a.length ≤ maxArgLen → decode ⟨0x0000, a, v⟩ = .instr .nop) ∧
  IllegalElsewhere 0x0 0x0000 ∧
  ∀ s : State, exec .nop s = .next (returns s { status := .ok })

/-- APPEND accepts as many bytes as fit, puts them behind the buffered ones, reports how many, and changes nothing
else: neither EXPLEN nor any other byte of a store (R111). -/
def Obligations.AppendAcceptsWhatFits : Prop :=
  (∀ (a : Bytes) (v : Value), a.length ≤ maxArgLen → decode ⟨0x1000, a, v⟩ = .instr (.append a)) ∧
  IllegalElsewhere 0x1 0x1000 ∧
  ∀ (arg : Bytes) (s : State) (b : Bytes), s.buf = some b →
    ∃ t, exec (.append arg) s = .next t ∧
      t.buf = some (b ++ arg.take (min arg.length (s.cfg.cap - s.fill))) ∧
      (∀ x, ¬(s.fill ≤ x ∧ x < s.fill + min arg.length (s.cfg.cap - s.fill)) →
        Memory.read t.bufStore x = Memory.read s.bufStore x) ∧
      t = { returns s { value := BitVec.ofNat 32 (min arg.length (s.cfg.cap - s.fill)), valid := true } with
        bufStore := t.bufStore, fill := s.fill + min arg.length (s.cfg.cap - s.fill) }

/-- CONSUME n removes the first `n` buffered bytes, keeps the order of the rest, sets EXPLEN to none and reports the
new FILL; with `n > FILL` it is refused as BAD_OPERAND (R112). -/
def Obligations.ConsumeRemovesPrefix : Prop :=
  (∀ (n : Byte) (a : Bytes) (v : Value), a.length ≤ maxArgLen →
    decode ⟨0x3000 + n.setWidth 16, a, v⟩ = .instr (.consume n)) ∧
  IllegalSel 0x3 ∧
  (∀ (n : Byte) (s : State) (b : Bytes), s.buf = some b → n.toNat ≤ s.fill →
    ∃ t, exec (.consume n) s = .next t ∧ t.buf = some (b.drop n.toNat) ∧
      t = { returns s { value := BitVec.ofNat 32 (s.fill - n.toNat), valid := true } with
        bufStore := t.bufStore, fill := s.fill - n.toNat, expLen := none }) ∧
  (∀ (n : Byte) (s : State), s.fill < n.toNat → exec (.consume n) s = .next (refuses s .badOperand .none))

/-- RESET_BUF discards all buffered bytes: FILL is 0, EXPLEN is none, and nothing but them and BUFSTORE changes
(R113). -/
def Obligations.ResetBufEmpties : Prop :=
  (∀ (a : Bytes) (v : Value), a.length ≤ maxArgLen → decode ⟨0x4000, a, v⟩ = .instr .resetBuf) ∧
  IllegalElsewhere 0x4 0x4000 ∧
  ∀ s : State, ∃ t, exec .resetBuf s = .next t ∧ t.buf = some [] ∧
    t = { returns s { status := .ok } with bufStore := t.bufStore, fill := 0, expLen := none }

/-! ### CRC-8 -/

/-- CRC8 returns the checksum of `length` bytes of ARG from `start`, where `VALUE = start ‖ length`; a range past the
end of ARG is refused as BAD_OPERAND; no state changes (R133). The checksum is the one spelled from R130 to R132. -/
def Obligations.Crc8ChecksOperand : Prop :=
  (∀ (a : Bytes) (v : Value), a.length ≤ maxArgLen → decode ⟨0x5000, a, v⟩ = .instr (.crc8 a v)) ∧
  IllegalElsewhere 0x5 0x5000 ∧
  (∀ (arg : Bytes) (v : Value) (s : State), v.toNat / 65536 + v.toNat % 65536 ≤ arg.length →
    exec (.crc8 arg v) s = .next (returns s
      { value := BitVec.ofNat 32 (checksumByRules s.cfg ((arg.drop (v.toNat / 65536)).take (v.toNat % 65536))),
        valid := true })) ∧
  (∀ (arg : Bytes) (v : Value) (s : State), arg.length < v.toNat / 65536 + v.toNat % 65536 →
    exec (.crc8 arg v) s = .next (refuses s .badOperand .none))

/-- The checksum that PROCESS, SUBMIT and CRC8 use is the one of R130 to R132, spelled on numbers: eight shifts for each
byte, MSB first or LSB first by CRC_REFLECT; in the MSB-first mode the 256-entry table `table[x] = crc8_step(0, x)`
gives the same; a range of a sequence is checked as the bytes of the range; and the check value of R132 comes out. -/
def Obligations.CrcTableForm : Prop :=
  (∀ (c : Config) (bs : Bytes), (crcOf c bs).toNat = checksumByRules c bs) ∧
  (∀ (c : Config) (bs : Bytes), c.crcReflect = false →
    (crcOf c bs).toNat =
      bs.foldl (fun r b =>
          ((List.range 256).map fun x => eightShifts (shiftMsb c.crcPoly.toNat) x).getD (r ^^^ b.toNat) 0)
        c.crcInit.toNat ^^^ c.crcXorOut.toNat) ∧
  (∀ (c : Config) (bs : Bytes) (start length : Nat), start + length ≤ bs.length →
    crc8 c bs start length = crcOf c ((bs.drop start).take length)) ∧
  crcOf Config.reference [0x31, 0x32, 0x33, 0x34, 0x35, 0x36, 0x37, 0x38, 0x39] = 0xF4

/-- With bit 0 of CRC_POLY set, an error confined to one byte of the covered bytes changes the checksum, in both bit
orders. R136 gives this from general knowledge, and for a single flipped bit only; an error of several bits within one
byte is the statement's own addition, a consequence of R130 to R132. -/
def Obligations.CrcDetectsByteError : Prop :=
  ∀ (c : Config) (bs : Bytes) (i : Nat) (e : Byte), c.crcPoly.getLsbD 0 = true → i < bs.length → e ≠ 0 →
    crcOf c (bs.set i (byteAt bs i ^^^ e)) ≠ crcOf c bs

/-! ### Decode kernels and the DECODE commands -/

/-- DECODE of the 16-bit kinds: TEMP16 reads two's complement, FREQ16 and GENERIC16 unsigned, in the configured byte
order; every other length is a LENGTH fault (R183, R185, R193). -/
def Obligations.DecodeSixteenBitKinds : Prop :=
  ((TakesWord 0x6000 fun a _ => .decodeTemp16 a) ∧
    (TakesWord 0x6200 fun a _ => .decodeFreq16 a) ∧
    (TakesWord 0x6A00 fun a _ => .decodeGeneric16 a)) ∧
  (∀ (s : State) (b0 b1 : Byte) (raw : Nat),
    raw = (if s.cfg.wordOrder = .le then b0.toNat + 256 * b1.toNat else 256 * b0.toNat + b1.toNat) →
    DecodesTo s (.decodeTemp16 [b0, b1]) .temp16 0 [b0, b1]
      (BitVec.ofInt 32 (if raw < 32768 then (raw : Int) else (raw : Int) - 65536)) [] ∧
    DecodesTo s (.decodeFreq16 [b0, b1]) .freq16 0 [b0, b1] (BitVec.ofNat 32 raw) [] ∧
    DecodesTo s (.decodeGeneric16 [b0, b1]) .generic16 0 [b0, b1] (BitVec.ofNat 32 raw) []) ∧
  (∀ (s : State) (p : Bytes), p.length ≠ 2 →
    DecodeLengthFault s (.decodeTemp16 p) .temp16 0 p ∧ DecodeLengthFault s (.decodeFreq16 p) .freq16 0 p ∧
      DecodeLengthFault s (.decodeGeneric16 p) .generic16 0 p)

/-- DECODE.TEMP8 reads one signed byte; every other length is a LENGTH fault (R184). -/
def Obligations.DecodeSignedByte : Prop :=
  (TakesWord 0x6100 fun a _ => .decodeTemp8 a) ∧
  (∀ (s : State) (b : Byte),
    DecodesTo s (.decodeTemp8 [b]) .temp8 0 [b]
      (BitVec.ofInt 32 (if b.toNat < 128 then (b.toNat : Int) else (b.toNat : Int) - 256)) []) ∧
  (∀ (s : State) (p : Bytes), p.length ≠ 1 → DecodeLengthFault s (.decodeTemp8 p) .temp8 0 p)

/-- DECODE of the one-byte ranged kinds: PERCENT up to 100, FLAG up to 1, ENUM up to `d`; a larger byte is a RANGE fault
and is never clamped, and every other length a LENGTH fault (R186, R189, R190). -/
def Obligations.DecodeRangedByte : Prop :=
  ((TakesWord 0x6300 fun a _ => .decodePercent a) ∧
    (TakesWord 0x6600 fun a _ => .decodeFlag a) ∧
    (∀ d : Byte, TakesWord (0x6700 + d.setWidth 16) fun a _ => .decodeEnum d a)) ∧
  (∀ (s : State) (b : Byte),
    (b.toNat ≤ 100 → DecodesTo s (.decodePercent [b]) .percent 0 [b] (BitVec.ofNat 32 b.toNat) []) ∧
    (100 < b.toNat → DecodeRangeFault s (.decodePercent [b]) .percent 0 [b]) ∧
    (b.toNat ≤ 1 → DecodesTo s (.decodeFlag [b]) .flag 0 [b] (BitVec.ofNat 32 b.toNat) []) ∧
    (1 < b.toNat → DecodeRangeFault s (.decodeFlag [b]) .flag 0 [b])) ∧
  (∀ (s : State) (d b : Byte),
    (b.toNat ≤ d.toNat → DecodesTo s (.decodeEnum d [b]) .enum d [b] (BitVec.ofNat 32 b.toNat) []) ∧
    (d.toNat < b.toNat → DecodeRangeFault s (.decodeEnum d [b]) .enum d [b])) ∧
  (∀ (s : State) (d : Byte) (p : Bytes), p.length ≠ 1 →
    DecodeLengthFault s (.decodePercent p) .percent 0 p ∧ DecodeLengthFault s (.decodeFlag p) .flag 0 p ∧
      DecodeLengthFault s (.decodeEnum d p) .enum d p)

/-- DECODE.TIME_HM and DECODE.DATE_DMY pack hour and minute, or year, month and day; an illegal field is a RANGE
fault, and a wrong length a LENGTH fault (R187, R188). -/
def Obligations.DecodeTimeAndDate : Prop :=
  ((TakesWord 0x6400 fun a _ => .decodeTimeHm a) ∧
    (TakesWord 0x6500 fun a _ => .decodeDateDmy a)) ∧
  (∀ (s : State) (h m : Byte),
    (h.toNat ≤ 23 ∧ m.toNat ≤ 59 →
      DecodesTo s (.decodeTimeHm [h, m]) .timeHm 0 [h, m] (BitVec.ofNat 32 (h.toNat * 256 + m.toNat)) []) ∧
    (23 < h.toNat ∨ 59 < m.toNat → DecodeRangeFault s (.decodeTimeHm [h, m]) .timeHm 0 [h, m])) ∧
  (∀ (s : State) (d m y : Byte),
    (1 ≤ d.toNat ∧ d.toNat ≤ 31 ∧ 1 ≤ m.toNat ∧ m.toNat ≤ 12 →
      DecodesTo s (.decodeDateDmy [d, m, y]) .dateDmy 0 [d, m, y]
        (BitVec.ofNat 32 ((s.cfg.yearBase + y.toNat) * 65536 + m.toNat * 256 + d.toNat)) []) ∧
    (d.toNat < 1 ∨ 31 < d.toNat ∨ m.toNat < 1 ∨ 12 < m.toNat →
      DecodeRangeFault s (.decodeDateDmy [d, m, y]) .dateDmy 0 [d, m, y])) ∧
  (∀ (s : State) (p : Bytes),
    (p.length ≠ 2 → DecodeLengthFault s (.decodeTimeHm p) .timeHm 0 p) ∧
    (p.length ≠ 3 → DecodeLengthFault s (.decodeDateDmy p) .dateDmy 0 p))

/-- DECODE.DIGITS passes `d` bytes through, DECODE.ALARM_CLEAR acknowledges any one byte, DECODE.EMPTY takes no byte;
every other length is a LENGTH fault (R191, R192, R194). -/
def Obligations.DecodePassThrough : Prop :=
  ((∀ d : Byte, TakesWord (0x6800 + d.setWidth 16) fun a _ => .decodeDigits d a) ∧
    (TakesWord 0x6900 fun a _ => .decodeAlarmClear a) ∧
    (TakesWord 0x6B00 fun a _ => .decodeEmpty a)) ∧
  (∀ (s : State) (d : Byte) (p : Bytes),
    (p.length = d.toNat → DecodesTo s (.decodeDigits d p) .digits d p 0 p) ∧
    (p.length ≠ d.toNat → DecodeLengthFault s (.decodeDigits d p) .digits d p)) ∧
  (∀ (s : State) (b : Byte), DecodesTo s (.decodeAlarmClear [b]) .alarmClear 0 [b] 0 []) ∧
  (∀ s : State, DecodesTo s (.decodeEmpty []) .empty 0 [] 0 []) ∧
  (∀ (s : State) (p : Bytes),
    (p.length ≠ 1 → DecodeLengthFault s (.decodeAlarmClear p) .alarmClear 0 p) ∧
    (p ≠ [] → DecodeLengthFault s (.decodeEmpty p) .empty 0 p))

/-- The length check comes first and is the only source of a LENGTH fault; a payload of the declared length decodes to
a legal value of its kind or is a RANGE fault (R91, R93, R181, R195). -/
def Obligations.DecodeChecksLengthFirst : Prop :=
  ∀ (c : Config) (k : Kind) (d : Byte) (p : Bytes), c.yearBase ≤ 65535 - 255 →
    (p.length ≠ dlen k d → decodeKernel c k d p = .fault .length) ∧
    (p.length = dlen k d → decodeKernel c k d p = .fault .range ∨
      ∃ v bs, decodeKernel c k d p = .ok v bs ∧ legalValue c k d v bs = true)

/-! ### Encode kernels and the ENCODE commands -/

/-- ENCODE of the temperatures: a value in the kind's range becomes its two's-complement bytes, any other is a RANGE
fault (R212, R213). -/
def Obligations.EncodeTemperatures : Prop :=
  ((TakesWord 0x7000 fun _ v => .encodeTemp16 v) ∧
    (TakesWord 0x7100 fun _ v => .encodeTemp8 v)) ∧
  (∀ (s : State) (v : Value),
    (-32768 ≤ v.toInt ∧ v.toInt ≤ 32767 →
      EncodesTo s (.encodeTemp16 v) .temp16 0 v []
        (if s.cfg.wordOrder = .le then [v.extractLsb' 0 8, v.extractLsb' 8 8]
          else [v.extractLsb' 8 8, v.extractLsb' 0 8])) ∧
    (v.toInt < -32768 ∨ 32767 < v.toInt → EncodeRangeFault s (.encodeTemp16 v) .temp16 0 v []) ∧
    (-128 ≤ v.toInt ∧ v.toInt ≤ 127 → EncodesTo s (.encodeTemp8 v) .temp8 0 v [] [v.extractLsb' 0 8]) ∧
    (v.toInt < -128 ∨ 127 < v.toInt → EncodeRangeFault s (.encodeTemp8 v) .temp8 0 v []))

/-- ENCODE of the 16-bit unsigned kinds: a value up to 65535 becomes its two bytes in the configured order, a larger
one is a RANGE fault (R214, R222). -/
def Obligations.EncodeSixteenBitKinds : Prop :=
  ((TakesWord 0x7200 fun _ v => .encodeFreq16 v) ∧
    (TakesWord 0x7A00 fun _ v => .encodeGeneric16 v)) ∧
  (∀ (s : State) (v : Value),
    (v.toNat ≤ 65535 →
      EncodesTo s (.encodeFreq16 v) .freq16 0 v []
        (if s.cfg.wordOrder = .le then [v.extractLsb' 0 8, v.extractLsb' 8 8]
          else [v.extractLsb' 8 8, v.extractLsb' 0 8]) ∧
      EncodesTo s (.encodeGeneric16 v) .generic16 0 v []
        (if s.cfg.wordOrder = .le then [v.extractLsb' 0 8, v.extractLsb' 8 8]
          else [v.extractLsb' 8 8, v.extractLsb' 0 8])) ∧
    (65535 < v.toNat →
      EncodeRangeFault s (.encodeFreq16 v) .freq16 0 v [] ∧ EncodeRangeFault s (.encodeGeneric16 v) .generic16 0 v []))

/-- ENCODE of the one-byte ranged kinds: PERCENT up to 100, FLAG up to 1, ENUM up to `d`; a larger value is a RANGE
fault (R215, R218, R219). -/
def Obligations.EncodeRangedByte : Prop :=
  ((TakesWord 0x7300 fun _ v => .encodePercent v) ∧
    (TakesWord 0x7600 fun _ v => .encodeFlag v) ∧
    (∀ d : Byte, TakesWord (0x7700 + d.setWidth 16) fun _ v => .encodeEnum d v)) ∧
  (∀ (s : State) (d : Byte) (v : Value),
    (v.toNat ≤ 100 → EncodesTo s (.encodePercent v) .percent 0 v [] [v.extractLsb' 0 8]) ∧
    (100 < v.toNat → EncodeRangeFault s (.encodePercent v) .percent 0 v []) ∧
    (v.toNat ≤ 1 → EncodesTo s (.encodeFlag v) .flag 0 v [] [v.extractLsb' 0 8]) ∧
    (1 < v.toNat → EncodeRangeFault s (.encodeFlag v) .flag 0 v []) ∧
    (v.toNat ≤ d.toNat → EncodesTo s (.encodeEnum d v) .enum d v [] [v.extractLsb' 0 8]) ∧
    (d.toNat < v.toNat → EncodeRangeFault s (.encodeEnum d v) .enum d v []))

/-- ENCODE.TIME_HM and ENCODE.DATE_DMY unpack the fields of VALUE; an illegal field is a RANGE fault (R216, R217). The
fields are written as `VALUE / 2^16`, `VALUE / 2^8 mod 2^8` and `VALUE mod 2^8`. -/
def Obligations.EncodeTimeAndDate : Prop :=
  ((TakesWord 0x7400 fun _ v => .encodeTimeHm v) ∧
    (TakesWord 0x7500 fun _ v => .encodeDateDmy v)) ∧
  (∀ (s : State) (v : Value) (y m d : Nat),
    v.toNat = y * 65536 + m * 256 + d → m < 256 → d < 256 →
    (y = 0 ∧ m ≤ 23 ∧ d ≤ 59 →
      EncodesTo s (.encodeTimeHm v) .timeHm 0 v [] [BitVec.ofNat 8 m, BitVec.ofNat 8 d]) ∧
    (y ≠ 0 ∨ 23 < m ∨ 59 < d → EncodeRangeFault s (.encodeTimeHm v) .timeHm 0 v []) ∧
    (1 ≤ d ∧ d ≤ 31 ∧ 1 ≤ m ∧ m ≤ 12 ∧ s.cfg.yearBase ≤ y ∧ y ≤ s.cfg.yearBase + 255 →
      EncodesTo s (.encodeDateDmy v) .dateDmy 0 v []
        [BitVec.ofNat 8 d, BitVec.ofNat 8 m, BitVec.ofNat 8 (y - s.cfg.yearBase)]) ∧
    (d < 1 ∨ 31 < d ∨ m < 1 ∨ 12 < m ∨ y < s.cfg.yearBase ∨ s.cfg.yearBase + 255 < y →
      EncodeRangeFault s (.encodeDateDmy v) .dateDmy 0 v []))

/-- ENCODE.DIGITS passes `d` bytes through and answers a LENGTH fault for any other number; ENCODE.ALARM_CLEAR gives
ALARM_CLEAR_CODE and ENCODE.EMPTY no byte, and neither ever faults (R220, R221, R223). -/
def Obligations.EncodePassThrough : Prop :=
  ((∀ d : Byte, TakesWord (0x7800 + d.setWidth 16) fun a _ => .encodeDigits d a) ∧
    (TakesWord 0x7900 fun _ _ => .encodeAlarmClear) ∧
    (TakesWord 0x7B00 fun _ _ => .encodeEmpty)) ∧
  (∀ (s : State) (d : Byte) (v : Value) (bs : Bytes),
    (bs.length = d.toNat → EncodesTo s (.encodeDigits d bs) .digits d v bs bs) ∧
    (bs.length ≠ d.toNat → EncodeLengthFault s (.encodeDigits d bs) .digits d v bs) ∧
    EncodesTo s .encodeAlarmClear .alarmClear d v bs [s.cfg.alarmClearCode] ∧
    EncodesTo s .encodeEmpty .empty d v bs [])

/-- The round trip: a payload the encoder makes has the declared length and decodes to the value and the bytes it was
made from, and in a legal table the reply-write decoder of a register gives that same answer (the spec derives this in
R225). -/
def Obligations.CodecRoundTrip : Prop :=
  ∀ (c : Config) (k : Kind) (d : Byte) (v : Value) (bs pl : Bytes), encodeKernel c k d v bs = .ok pl →
    pl.length = dlen k d ∧
    decodeKernel c k d pl = .ok (decodedBack k v) (bytesBack k bs) ∧
    ∀ desc ∈ c.regTable, configOk c = true → desc.behQw = some k → desc.dparam = d →
      ∀ k', desc.behRw = some k' → decodeKernel c k' desc.dparam pl = .ok (decodedBack k v) (bytesBack k bs)

/-! ### PROCESS: the steps of the frame assembler -/

/-- Fewer than HDR_LEN bytes: PROCESS returns PFT_NONE and writes no state. A header without its whole frame: PROCESS
returns PFT_NONE and writes EXPLEN only. The same in both modes (R141, R144). -/
def Obligations.ProcessWaitsForBytes : Prop :=
  (∀ (nc : Bool) (s : State) (b : Bytes), s.buf = some b → b.length < hdrLen →
    exec (processCmd nc) s = .next (returns s { status := .ok, resClass := .none })) ∧
  (∀ (nc : Bool) (s : State) (b : Bytes), s.buf = some b → hdrLen ≤ b.length →
    hdrLen + (byteAt b 9).toNat + 1 ≤ s.cfg.cap → b.length < hdrLen + (byteAt b 9).toNat + 1 →
    exec (processCmd nc) s = .next { returns s { status := .ok, resClass := .none } with
      expLen := some (hdrLen + (byteAt b 9).toNat + 1) })

/-- A self-inconsistent header, `L > CAP`: PROCESS grabs the header, discards exactly one byte, clears EXPLEN and
returns PFT_CORRUPTED with cause HEADER, in both modes (R143). -/
def Obligations.ProcessDropsBadHeader : Prop :=
  ∀ (nc : Bool) (s : State) (b : Bytes), s.buf = some b → hdrLen ≤ b.length →
    s.cfg.cap < hdrLen + (byteAt b 9).toNat + 1 →
    ∃ t, exec (processCmd nc) s = .next t ∧ t.buf = some (b.drop 1) ∧
      t = { s.grab hdrLen b with
        bufStore := t.bufStore, fill := s.fill - 1, expLen := none, inputs := s.inputs.tail,
        results := s.results ++ [{ resClass := .corrupted, cause := .header }] }

/-- A checksum mismatch: PROCESS grabs the frame, discards exactly `L` bytes, clears EXPLEN and returns PFT_CORRUPTED
with cause CRC and no frame record, in both modes (R145, R146). -/
def Obligations.ProcessDropsBadChecksum : Prop :=
  ∀ (nc : Bool) (s : State) (b : Bytes), WholeFrame s b → ¬ CrcMatches s.cfg b →
    ∃ t, exec (processCmd nc) s = .next t ∧ t.buf = some (b.drop (frameLen b)) ∧
      t = { s.grab (frameLen b) b with
        bufStore := t.bufStore, fill := s.fill - frameLen b, expLen := none, inputs := s.inputs.tail,
        results := s.results ++ [{ resClass := .corrupted, cause := .crc }] }

/-- A CRC-valid frame with an unknown direction or op byte: PFT_UNKNOWN with DS_BAD_DISCRIMINATOR and the frame record,
no lookup, no decode, no status write (R147). -/
def Obligations.ProcessUnknownDiscriminator : Prop :=
  ∀ (nc : Bool) (s : State) (b : Bytes), WholeFrame s b → CrcMatches s.cfg b →
    (byteAt b 8 ≠ s.cfg.dirQuery ∧ byteAt b 8 ≠ s.cfg.dirReply ∨
      byteAt b 10 ≠ s.cfg.opRead ∧ byteAt b 10 ≠ s.cfg.opWrite) →
    ∃ t, ProcessesFrame nc s b
        { resClass := .unknown, disp := .badDiscriminator, frame := some (frameRecord s.cfg (b.take (frameLen b))) } t ∧
      t.status = s.status

/-- A CRC-valid frame whose register is not in the table: PFT_UNKNOWN with DS_NO_REGISTER and the frame record, no
decode and no status write (R148). -/
def Obligations.ProcessUnknownRegister : Prop :=
  ∀ (nc : Bool) (s : State) (b : Bytes), WholeFrame s b → CrcMatches s.cfg b →
    (byteAt b 8 = s.cfg.dirQuery ∨ byteAt b 8 = s.cfg.dirReply) →
    (byteAt b 10 = s.cfg.opRead ∨ byteAt b 10 = s.cfg.opWrite) →
    (∀ desc ∈ s.cfg.regTable, desc.regId ≠ (b.drop 11).take 9) →
    ∃ t, ProcessesFrame nc s b
        { resClass := .unknown, disp := .noRegister, frame := some (frameRecord s.cfg (b.take (frameLen b))) } t ∧
      t.status = s.status

/-- A CRC-valid frame of a known register without a behaviour for its direction and op: the class stays PFT_QUERY or
PFT_REPLY with DS_UNSUPPORTED, and nothing is decoded or written to STATUS (R149, R150). -/
def Obligations.ProcessUnsupported : Prop :=
  ∀ (nc : Bool) (s : State) (b : Bytes) (dir : WireDir) (op : RegOp) (desc : Descriptor),
    WholeFrame s b → CrcMatches s.cfg b → NamesDirection s.cfg (byteAt b 8) dir → NamesOp s.cfg (byteAt b 10) op →
    TheRegister s.cfg ((b.drop 11).take 9) desc →
    HasBehaviour desc dir op none →
    ∃ t, ProcessesFrame nc s b
        { resClass := if dir = .query then .query else .reply, disp := .unsupported,
          frame := some (frameRecord s.cfg (b.take (frameLen b))) } t ∧
      t.status = s.status

/-- A decode fault inside PROCESS: the class stays, DS_DECODE_FAULT carries the kernel's cause, the frame is consumed
and grabbed as for a successful decode, and no status field changes (R151, R152, R196). -/
def Obligations.ProcessDecodeFault : Prop :=
  ∀ (nc : Bool) (s : State) (b : Bytes) (dir : WireDir) (op : RegOp) (desc : Descriptor) (k : Kind)
    (cause : CodecFault),
    WholeFrame s b → CrcMatches s.cfg b → NamesDirection s.cfg (byteAt b 8) dir → NamesOp s.cfg (byteAt b 10) op →
    TheRegister s.cfg ((b.drop 11).take 9) desc →
    HasBehaviour desc dir op (some k) →
    decodeKernel s.cfg k desc.dparam ((b.drop 20).take (byteAt b 9).toNat) = .fault cause →
    ∃ t, ProcessesFrame nc s b
        { resClass := if dir = .query then .query else .reply, disp := .decodeFault, kind := kindCode k,
          cause := if cause = .length then .length else .range,
          frame := some (frameRecord s.cfg (b.take (frameLen b))) } t ∧
      t.status = s.status

/-- A successful decode inside PROCESS: the record carries the value, and exactly a reply of a register with a status
field writes that field, last value wins; a query writes none (R149, R151, R152, R153). -/
def Obligations.ProcessDecodesAndProjects : Prop :=
  ∀ (nc : Bool) (s : State) (b : Bytes) (dir : WireDir) (op : RegOp) (desc : Descriptor) (k : Kind) (v : Value)
    (bs : Bytes),
    WholeFrame s b → CrcMatches s.cfg b → NamesDirection s.cfg (byteAt b 8) dir → NamesOp s.cfg (byteAt b 10) op →
    TheRegister s.cfg ((b.drop 11).take 9) desc →
    HasBehaviour desc dir op (some k) →
    decodeKernel s.cfg k desc.dparam ((b.drop 20).take (byteAt b 9).toNat) = .ok v bs →
    ∃ t, ProcessesFrame nc s b
        { resClass := if dir = .query then .query else .reply, disp := .ok, kind := kindCode k, value := v,
          bytes := bs, valid := true, field := if dir = .reply then desc.statusField else none,
          frame := some (frameRecord s.cfg (b.take (frameLen b))) } t ∧
      (∀ f, dir = .reply → desc.statusField = some f →
        t.status = s.status.set f (some { kind := k, value := v, bytes := bs })) ∧
      (dir = .query ∨ desc.statusField = none → t.status = s.status)

/-- The frame record reports the fields of R80 at their offsets, the raw bytes, and the direction and op they name
(R100). -/
def Obligations.FrameRecordFields : Prop :=
  ∀ (c : Config) (f : Bytes), hdrLen ≤ f.length → f.length = frameLen f → c.dirQuery ≠ c.dirReply →
    c.opRead ≠ c.opWrite →
    frameRecord c f =
      { dst := f.take 4, src := (f.drop 4).take 4, dirByte := byteAt f 8, lenByte := byteAt f 9,
        opByte := byteAt f 10, regId := (f.drop 11).take 9, payload := (f.drop 20).take (byteAt f 9).toNat,
        crc := byteAt f (f.length - 1),
        direction := if byteAt f 8 = c.dirQuery then some .incomingQuery
          else if byteAt f 8 = c.dirReply then some .reply else none,
        op := if byteAt f 10 = c.opRead then some .read else if byteAt f 10 = c.opWrite then some .write else none }

/-- The grab: a step whose class is PFT_NONE leaves the grab as it was; every other step with the sink on copies the
first `min(m, GRAB_CAP)` buffered bytes, taken before any byte is removed, with `m = HDR_LEN` for a self-inconsistent
header and `m = L` otherwise; with the sink off nothing is copied (R154). -/
def Obligations.GrabCopiesRawFrame : Prop :=
  ∀ (nc : Bool) (s t : State) (b : Bytes) (r : Result), s.buf = some b → exec (processCmd nc) s = .next t →
    t.results = s.results ++ [r] →
    (r.resClass = .none ∨ s.grabEn = false → t.grabStore = s.grabStore ∧ t.grabLen = s.grabLen) ∧
    (r.resClass ≠ .none → s.grabEn = true → r.cause = .header →
      t.grabLen = min hdrLen s.grabCap ∧ t.grabBytes = some (b.take (min hdrLen s.grabCap))) ∧
    (r.resClass ≠ .none → s.grabEn = true → r.cause ≠ .header →
      t.grabLen = min (frameLen b) s.grabCap ∧ t.grabBytes = some (b.take (min (frameLen b) s.grabCap)))

/-! ### PROCESS: properties of runs -/

/-- A full buffer always progresses: the class is not PFT_NONE, and at least one byte leaves, unless the mode is
`no_clear` and the checksum matched (the spec derives this in R158). -/
def Obligations.FullBufferProgresses : Prop :=
  ∀ (nc : Bool) (s : State) (b : Bytes), 21 ≤ s.cfg.cap → s.buf = some b → s.fill = s.cfg.cap →
    ∃ t r, exec (processCmd nc) s = .next t ∧ t.results = s.results ++ [r] ∧ r.resClass ≠ .none ∧
      (nc = false ∨ ¬ CrcMatches s.cfg b ∨ s.cfg.cap < frameLen b → t.fill < s.fill)

/-- Draining ends: from `FILL = n`, a PFT_NONE comes back within `n + 1` PROCESS commands (the spec derives this in
R159). -/
def Obligations.DrainEnds : Prop :=
  ∀ (s : State) (b : Bytes), s.buf = some b →
    ∃ t, drain (s.fill + 1) s = some t ∧ t.lastResult.map Result.resClass = some .none

/-- Incremental delivery does not change outcomes: from a drained state of a legal instance, two ways of cutting one
byte stream, each chunk appended and drained and its unaccepted bytes re-offered, give the same results but for
PFT_NONE, and the same buffer, EXPLEN, status file and grab (the spec derives this in R160). -/
def Obligations.DeliveryIndependentOfChunks : Prop :=
  ∀ (s : State) (cs ds : List Bytes), s.Inv → exec .process s = .next (returns s { status := .ok }) →
    cs.flatten = ds.flatten →
    ∃ t u, deliver cs s = some t ∧ deliver ds s = some u ∧
      t.frameResults s.results.length = u.frameResults s.results.length ∧
      t.buf = u.buf ∧ t.fill = u.fill ∧ t.expLen = u.expLen ∧ t.status = u.status ∧
      t.grabBytes = u.grabBytes ∧ t.grabLen = u.grabLen

/-- Repeating PROCESS.NC: after a step whose class is PFT_QUERY, PFT_REPLY or PFT_UNKNOWN, a second PROCESS.NC returns
the same result and changes no state (the spec derives this in R161). -/
def Obligations.ProcessNcRepeats : Prop :=
  ∀ (s t : State) (b : Bytes) (r : Result), s.buf = some b → exec .processNc s = .next t →
    t.results = s.results ++ [r] → (r.resClass = .query ∨ r.resClass = .reply ∨ r.resClass = .unknown) →
    exec .processNc t = .next (returns t r)

/-- A corrupted frame and then a valid reply of a status register, back to back: two PROCESS commands return
PFT_CORRUPTED with cause CRC and then PFT_REPLY, and the second frame's status field is written (the spec derives this
in R163). -/
def Obligations.CorruptedThenValid : Prop :=
  ∀ (s : State) (f1 f2 : Bytes) (op : RegOp) (desc : Descriptor) (k : Kind) (v : Value) (bs : Bytes) (n : Nat),
    s.buf = some (f1 ++ f2) → f1.length = frameLen f1 → f2.length = frameLen f2 → hdrLen ≤ f1.length →
    hdrLen ≤ f2.length → f1.length + f2.length ≤ s.cfg.cap → s.cfg.dirQuery ≠ s.cfg.dirReply →
    ¬ CrcMatches s.cfg f1 → CrcMatches s.cfg f2 → byteAt f2 8 = s.cfg.dirReply →
    NamesOp s.cfg (byteAt f2 10) op → TheRegister s.cfg ((f2.drop 11).take 9) desc →
    HasBehaviour desc .reply op (some k) →
    decodeKernel s.cfg k desc.dparam ((f2.drop 20).take (byteAt f2 9).toNat) = .ok v bs →
    desc.statusField = some n →
    ∃ t u r q, exec .process s = .next t ∧ exec .process t = .next u ∧ u.results = s.results ++ [r, q] ∧
      r.resClass = .corrupted ∧ r.cause = .crc ∧ q.resClass = .reply ∧ q.disp = .ok ∧ q.value = v ∧
      q.field = some n ∧ u.status = s.status.set n (some { kind := k, value := v, bytes := bs }) ∧ u.buf = some []

/-- Only a PFT_REPLY step with DS_OK changes a status field: PFT_UNKNOWN is inert and queries never change the status
file; and no PROCESS step changes TX (R152; the spec derives this in R164 and R165). -/
def Obligations.OnlyDecodedRepliesWriteStatus : Prop :=
  ∀ (nc : Bool) (s t : State) (r : Result), exec (processCmd nc) s = .next t → t.results = s.results ++ [r] →
    ((r.resClass ≠ .reply ∨ r.disp ≠ .ok ∨ r.field = none) → t.status = s.status) ∧ t.tx = s.tx

/-! ### SUBMIT -/

/-- SUBMIT's checks in their order: the first that fails ends the command with its status, and nothing is written to TX
or any other state (R241). -/
def Obligations.SubmitCheckOrder : Prop :=
  (∀ c : Command, c.arg.length ≤ maxArgLen → opcOf c.cmd = 0x8 → c.cmd ≠ 0x8000 → c.cmd ≠ 0x8100 →
    decode c = .rejected .illegalCmd) ∧
  ∀ (op : RegOp) (arg : Bytes) (v : Value) (s : State),
    (arg.length < 9 → exec (submitCmd op arg v) s = .next (refuses s .badOperand .none)) ∧
    (9 ≤ arg.length →
      ((∀ desc ∈ s.cfg.regTable, desc.regId ≠ arg.take 9) →
        exec (submitCmd op arg v) s = .next (refuses s .noRegister .none)) ∧
      ∀ desc, TheRegister s.cfg (arg.take 9) desc →
        (HasBehaviour desc .query op none → exec (submitCmd op arg v) s = .next (refuses s .unsupported .none)) ∧
        ∀ k, HasBehaviour desc .query op (some k) →
          (arg.drop 9 ≠ [] → k ≠ .digits → exec (submitCmd op arg v) s = .next (refuses s .badOperand .none)) ∧
          ((arg.drop 9 = [] ∨ k = .digits) →
            (∀ cause, encodeKernel s.cfg k desc.dparam v (arg.drop 9) = .fault cause →
              exec (submitCmd op arg v) s
                = .next (refuses s .encodeFault (if cause = .length then .length else .range))) ∧
            ∀ pl, encodeKernel s.cfg k desc.dparam v (arg.drop 9) = .ok pl →
              (¬ RangeHolds op desc k v → exec (submitCmd op arg v) s = .next (refuses s .encodeFault .range)) ∧
              (RangeHolds op desc k v → (s.hpAddrValid = false ∨ s.ctrlAddrValid = false) →
                exec (submitCmd op arg v) s = .next (refuses s .addrUnset .none))))

/-- Once every check has passed SUBMIT emits one frame, `HP_ADDR ++ CTRL_ADDR ++ [DIR_QUERY, P, opbyte] ++ rid ++
payload` with its CRC-8 stamped, returns it with its length, kind and record, and changes nothing but TX (R242). -/
def Obligations.SubmitEmitsFrame : Prop :=
  ∀ (op : RegOp) (arg : Bytes) (v : Value) (s : State) (desc : Descriptor) (k : Kind) (pl body fr : Bytes),
    9 ≤ arg.length → TheRegister s.cfg (arg.take 9) desc → HasBehaviour desc .query op (some k) →
    (arg.drop 9 = [] ∨ k = .digits) → encodeKernel s.cfg k desc.dparam v (arg.drop 9) = .ok pl →
    RangeHolds op desc k v → s.hpAddrValid = true → s.ctrlAddrValid = true →
    body = [s.hpAddr.b0, s.hpAddr.b1, s.hpAddr.b2, s.hpAddr.b3, s.ctrlAddr.b0, s.ctrlAddr.b1, s.ctrlAddr.b2,
      s.ctrlAddr.b3, s.cfg.dirQuery, BitVec.ofNat 8 pl.length, if op = .read then s.cfg.opRead else s.cfg.opWrite]
        ++ arg.take 9 ++ pl →
    fr = body ++ [crcOf s.cfg body] →
    pl.length ≤ 255 ∧
    exec (submitCmd op arg v) s = .next { returns s
      { value := BitVec.ofNat 32 fr.length, valid := true, bytes := fr, kind := kindCode k,
        frame := some { frameRecord s.cfg fr with direction := some .outgoingQuery } } with
      tx := s.tx ++ [fr] }

/-- A frame SUBMIT emits, appended unchanged to an empty buffer, is classified PFT_QUERY with direction INCOMING_QUERY,
decodes to the value that was encoded, is consumed whole, and writes no status field (the spec derives this in R247). -/
def Obligations.SubmittedFrameEchoes : Prop :=
  ∀ (op : RegOp) (arg : Bytes) (v : Value) (s t u : State) (fr : Bytes),
    configOk s.cfg = true → exec (submitCmd op arg v) s = .next t → t.tx = s.tx ++ [fr] →
    u.cfg = s.cfg → u.buf = some fr →
    ∃ w r desc k, TheRegister s.cfg (arg.take 9) desc ∧ HasBehaviour desc .query op (some k) ∧
      exec .process u = .next w ∧ w.results = u.results ++ [r] ∧ r.resClass = .query ∧ r.disp = .ok ∧
      r.kind = kindCode k ∧ r.value = decodedBack k v ∧ r.bytes = bytesBack k (arg.drop 9) ∧
      (∃ rec, r.frame = some rec ∧ rec.direction = some .incomingQuery ∧ rec.op = some op) ∧
      w.buf = some [] ∧ w.status = u.status

/-- Every step keeps every frame in TX a valid outgoing frame: its length byte gives its length, it fits the buffer, it
is a query of a register of the table, and its checksum is stamped (R82, R135, R242). -/
def Obligations.StepKeepsTxValid : Prop :=
  ∀ s t : State, configOk s.cfg = true → s.TxValid → step s = .next t → t.TxValid

/-! ### Configuration and readout -/

/-- SET_ADDR.HP and SET_ADDR.CTRL set their address from exactly 4 bytes and mark it valid; any other length is refused
as BAD_OPERAND (R255, R256). -/
def Obligations.SetAddrWritesAddress : Prop :=
  (∀ (a : Bytes) (v : Value), a.length ≤ maxArgLen →
    decode ⟨0x9000, a, v⟩ = .instr (.setAddrHp a) ∧ decode ⟨0x9100, a, v⟩ = .instr (.setAddrCtrl a)) ∧
  (∀ c : Command, c.arg.length ≤ maxArgLen → opcOf c.cmd = 0x9 → c.cmd ≠ 0x9000 → c.cmd ≠ 0x9100 →
    decode c = .rejected .illegalCmd) ∧
  (∀ (a0 a1 a2 a3 : Byte) (s : State),
    exec (.setAddrHp [a0, a1, a2, a3]) s
      = .next { returns s { status := .ok } with hpAddr := ⟨a0, a1, a2, a3⟩, hpAddrValid := true } ∧
    exec (.setAddrCtrl [a0, a1, a2, a3]) s
      = .next { returns s { status := .ok } with ctrlAddr := ⟨a0, a1, a2, a3⟩, ctrlAddrValid := true }) ∧
  (∀ (arg : Bytes) (s : State), arg.length ≠ 4 →
    exec (.setAddrHp arg) s = .next (refuses s .badOperand .none) ∧
    exec (.setAddrCtrl arg) s = .next (refuses s .badOperand .none))

/-- SET_GRAB.OFF disables the sink, SET_GRAB.ON enables it with a capacity up to GCAP_MAX; both make the old grab
unreadable; a larger capacity is refused as BAD_OPERAND (R257, R258). -/
def Obligations.SetGrabConfiguresSink : Prop :=
  (∀ (a : Bytes) (v : Value), a.length ≤ maxArgLen →
    decode ⟨0xA000, a, v⟩ = .instr .setGrabOff ∧ decode ⟨0xA100, a, v⟩ = .instr (.setGrabOn v)) ∧
  (∀ c : Command, c.arg.length ≤ maxArgLen → opcOf c.cmd = 0xA → c.cmd ≠ 0xA000 → c.cmd ≠ 0xA100 →
    decode c = .rejected .illegalCmd) ∧
  (∀ s : State, ∃ t, exec .setGrabOff s = .next t ∧ t.grabBytes = some [] ∧
    t = { returns s { status := .ok } with grabEn := false, grabLen := 0, grabStore := t.grabStore }) ∧
  (∀ (v : Value) (s : State), v.toNat ≤ s.cfg.gcapMax → ∃ t, exec (.setGrabOn v) s = .next t ∧
    t.grabBytes = some [] ∧
    t = { returns s { status := .ok } with
      grabEn := true, grabCap := v.toNat, grabLen := 0, grabStore := t.grabStore }) ∧
  (∀ (v : Value) (s : State), s.cfg.gcapMax < v.toNat →
    exec (.setGrabOn v) s = .next (refuses s .badOperand .none))

/-- READ_STATUS i returns the field's last written kind, value and bytes, or RES_VALID = 0 for a field never written;
an index outside the file is refused as BAD_OPERAND; nothing changes (R259). -/
def Obligations.ReadStatusReturnsField : Prop :=
  (∀ (i : Byte) (a : Bytes) (v : Value), a.length ≤ maxArgLen →
    decode ⟨0xB000 + i.setWidth 16, a, v⟩ = .instr (.readStatus i)) ∧
  IllegalSel 0xB ∧
  (∀ (i : Byte) (s : State), i.toNat < s.cfg.nstatus → s.status[i.toNat]? = some none →
    exec (.readStatus i) s = .next (returns s { valid := false, field := some i.toNat })) ∧
  (∀ (i : Byte) (s : State) (k : Kind) (v : Value) (bs : Bytes), i.toNat < s.cfg.nstatus →
    s.status[i.toNat]? = some (some { kind := k, value := v, bytes := bs }) →
    exec (.readStatus i) s = .next (returns s
      { valid := true, value := v, bytes := bs, kind := kindCode k, field := some i.toNat })) ∧
  (∀ (i : Byte) (s : State), s.cfg.nstatus ≤ i.toNat →
    exec (.readStatus i) s = .next (refuses s .badOperand .none))

/-- READ_GRAB returns `GRAB_CAP ‖ GRAB_LEN` and the grabbed prefix, and changes nothing (R260). -/
def Obligations.ReadGrabReturnsPrefix : Prop :=
  (∀ (a : Bytes) (v : Value), a.length ≤ maxArgLen → decode ⟨0xC000, a, v⟩ = .instr .readGrab) ∧
  IllegalElsewhere 0xC 0xC000 ∧
  ∀ (s : State) (bs : Bytes), s.grabBytes = some bs →
    exec .readGrab s = .next (returns s
      { valid := true, value := BitVec.ofNat 32 (s.grabCap % 65536 * 65536 + s.grabLen % 65536), bytes := bs })

/-- READ_STATE returns `EXPLEN ‖ FILL`, with 0 for an EXPLEN of none, and the byte of valid and enable bits, and changes
nothing (R261). -/
def Obligations.ReadStateReturnsProgress : Prop :=
  (∀ (a : Bytes) (v : Value), a.length ≤ maxArgLen → decode ⟨0xD000, a, v⟩ = .instr .readState) ∧
  IllegalElsewhere 0xD 0xD000 ∧
  ∀ (s : State) (e : Nat), (s.expLen = none → e = 0) → (∀ len, s.expLen = some len → e = len) →
    exec .readState s = .next (returns s
      { valid := true, value := BitVec.ofNat 32 (e % 65536 * 65536 + s.fill % 65536),
        bytes := [BitVec.ofNat 8 ((if s.hpAddrValid then 1 else 0) + (if s.ctrlAddrValid then 2 else 0)
          + (if s.grabEn then 4 else 0))] })

/-! ### Reset, invariants and the whole machine -/

/-- After reset every element holds the value of R38's table; the bytes of the stores have no value. The addresses,
which the spec leaves unspecified, are not stated (R38, R311). That the stores list no byte is the model's choice (log
entry 4). -/
def Obligations.ResetValues : Prop :=
  ∀ c : Config,
    (State.initial c).fill = 0 ∧ (State.initial c).expLen = none ∧ (State.initial c).hpAddrValid = false ∧
    (State.initial c).ctrlAddrValid = false ∧ (State.initial c).grabEn = false ∧ (State.initial c).grabCap = 0 ∧
    (State.initial c).grabLen = 0 ∧
    ((State.initial c).status.length = c.nstatus ∧ ∀ f, f < c.nstatus → (State.initial c).status[f]? = some none) ∧
    (State.initial c).tx = [] ∧ (State.initial c).cfg = c ∧
    (∀ x, Memory.read (State.initial c).bufStore x = none ∧ Memory.read (State.initial c).grabStore x = none)

/-- The reset state of a legal configuration satisfies the invariants (R28, R38). That the stores list no byte is the
model's choice (log entry 4), and that State.reset is of the reference configuration too (log entry 2). -/
def Obligations.ResetSatisfiesInvariants : Prop :=
  (∀ c : Config, configOk c = true →
    (State.initial c).Inv ∧ (State.initial c).StatusLegal ∧ (State.initial c).TxValid) ∧
  configOk State.reset.cfg = true

/-- Every step keeps the invariant of a legal instance: the configuration legal, the stores listing exactly their
prefixes (log entry 4), the counts in range, EXPLEN the mirror of the buffered header (the spec derives this in R28),
NSTATUS status fields (R24 to R35). -/
def Obligations.StepKeepsInvariant : Prop :=
  ∀ s t : State, s.Inv → step s = .next t → t.Inv

/-- Every step keeps the status file legal: a written field holds the kind and a legal value of the status register
that feeds it, and a field that no descriptor names stays unset (R35, R93, R152). -/
def Obligations.StepKeepsStatusLegal : Prop :=
  ∀ s t : State, configOk s.cfg = true → s.StatusLegal → step s = .next t → t.StatusLegal

/-- In a legal instance every command the port carries, legal word or not, yields a next state with exactly one result
record added, and no fault and no refusal (R280, R323). -/
def Obligations.EveryCommandReturnsOneResult : Prop :=
  ∀ (s : State) (c : Command) (rest : List HostEvent), s.Inv → s.inputs = .command c :: rest →
    c.arg.length ≤ maxArgLen →
    ∃ t r, step s = .next t ∧ t.inputs = rest ∧ t.results = s.results ++ [r]

/-- A command whose STATUS is not OK, legal word or not, has made no state change, and its record carries only STATUS
and CAUSE (R73, R293). -/
def Obligations.RefusedCommandChangesNothing : Prop :=
  (∀ (i : Instr) (s t : State) (r : Result), exec i s = .next t → t.results = s.results ++ [r] → r.status ≠ .ok →
    r = { status := r.status, cause := r.cause } ∧ t = returns s r) ∧
  (∀ (c : Command) (rest : List HostEvent) (s t : State) (r : Result), s.inputs = .command c :: rest →
    step s = .next t → t.results = s.results ++ [r] → r.status ≠ .ok →
    r = { status := r.status, cause := r.cause } ∧ t = returns s r)

/-- Each state element is written only by the commands R38's table names for it, and the configuration by none
(R37, R38). One clause is wider than the table: SET_GRAB.OFF and SET_GRAB.ON may change GRAB_STORE, whose bytes lose
their value when GRAB_LEN becomes 0 (the model's choice, log entry 5); below the new GRAB_LEN only PROCESS changes a
byte, as the table says. -/
def Obligations.OnlyOwnersWrite : Prop :=
  ∀ (i : Instr) (s t : State), exec i s = .next t →
    t.cfg = s.cfg ∧
    ((∀ a, i ≠ .append a) → (∀ n, i ≠ .consume n) → i ≠ .resetBuf → i ≠ .process → i ≠ .processNc →
      t.bufStore = s.bufStore ∧ t.fill = s.fill) ∧
    ((∀ n, i ≠ .consume n) → i ≠ .resetBuf → i ≠ .process → i ≠ .processNc → t.expLen = s.expLen) ∧
    ((∀ a, i ≠ .setAddrHp a) → t.hpAddr = s.hpAddr ∧ t.hpAddrValid = s.hpAddrValid) ∧
    ((∀ a, i ≠ .setAddrCtrl a) → t.ctrlAddr = s.ctrlAddr ∧ t.ctrlAddrValid = s.ctrlAddrValid) ∧
    (i ≠ .setGrabOff → (∀ v, i ≠ .setGrabOn v) → t.grabEn = s.grabEn) ∧
    ((∀ v, i ≠ .setGrabOn v) → t.grabCap = s.grabCap) ∧
    (i ≠ .process → i ≠ .processNc → i ≠ .setGrabOff → (∀ v, i ≠ .setGrabOn v) →
      t.grabStore = s.grabStore ∧ t.grabLen = s.grabLen) ∧
    (i ≠ .process → i ≠ .processNc → ∀ x, x < t.grabLen → Memory.read t.grabStore x = Memory.read s.grabStore x) ∧
    (i ≠ .process → i ≠ .processNc → t.status = s.status) ∧
    ((∀ a v, i ≠ .submitRead a v) → (∀ a v, i ≠ .submitWrite a v) → t.tx = s.tx) ∧
    (∃ added, t.tx = s.tx ++ added ∧ added.length ≤ 1)

/-- What the spec leaves unspecified is never observed: two states that differ only in bytes at and above FILL or
GRAB_LEN and in addresses not yet set step to outcomes that differ only so, and have the same observation (the
spec derives this in R311 and R323). -/
def Obligations.UnspecifiedIsUnobservable : Prop :=
  ∀ s t : State, SameButUnspecified s t → SameOutcome (step s) (step t) ∧ s.observe = t.observe

/-- A configuration is legal exactly when its parameters are in their legal values (R8), its register ids are 9 bytes
(R9, R96) and its table passes every check of R98; an instance is built from a legal configuration, in the reset state
(R310), and from no other. WF-KIND holds by the closed type of kinds (log entry 8). -/
def Obligations.LegalConfigurations : Prop :=
  (∀ c : Config, configOk c = true ↔ LegalConfig c) ∧
  (∀ c : Config, LegalConfig c → State.create c = .next (State.initial c)) ∧
  (∀ c : Config, ¬ LegalConfig c → State.create c = .refused .illegalConfig) ∧
  LegalConfig Config.reference

/-- The codes of R79, R90, R281 and R282. -/
def Obligations.OutcomeCodes : Prop :=
  ([StatusCode.ok, .illegalCmd, .badOperand, .decodeFault, .encodeFault, .noRegister, .unsupported, .addrUnset].map
    StatusCode.code = [0, 1, 2, 3, 4, 5, 6, 7]) ∧
  ([Cause.none, .length, .range, .header, .crc].map Cause.code = [0, 1, 2, 3, 4]) ∧
  ([FrameClass.none, .corrupted, .query, .reply, .unknown].map FrameClass.code = [0, 1, 2, 3, 4]) ∧
  ([Dispatched.none, .ok, .decodeFault, .unsupported, .noRegister, .badDiscriminator].map Dispatched.code
    = [0, 1, 2, 3, 4, 5]) ∧
  ([Kind.temp16, .temp8, .freq16, .percent, .timeHm, .dateDmy, .flag, .enum, .digits, .alarmClear, .generic16,
    .empty].map kindCode = [0, 1, 2, 3, 4, 5, 6, 7, 8, 9, 10, 11]) ∧
  (∀ k : Kind, kindOfCode (kindCode k) = some k) ∧
  [0xC, 0xD, 0xE, 0xF].map kindOfCode = [none, none, none, none]

/-- The lookup answers a descriptor of the table with exactly the id asked for, and none exactly where the table has no
such descriptor; in a legal table every descriptor is found under its id (R99). Behaviour selection takes the field of
the (direction, op) pair (R97). -/
def Obligations.LookupAndBehaviour : Prop :=
  (∀ (c : Config) (id : Bytes),
    (∀ desc, findRegister c id = some desc → desc ∈ c.regTable ∧ desc.regId = id) ∧
    (findRegister c id = none ↔ ∀ desc ∈ c.regTable, desc.regId ≠ id)) ∧
  (∀ c : Config, configOk c = true →
    ∀ (id : Bytes) (desc : Descriptor), findRegister c id = some desc ↔ TheRegister c id desc) ∧
  (∀ desc : Descriptor, behaviour desc .query .read = desc.behQr ∧ behaviour desc .query .write = desc.behQw ∧
    behaviour desc .reply .read = desc.behRr ∧ behaviour desc .reply .write = desc.behRw)
end

