-- ==== Sys2Proof/Laws/Decode.lean ====
section
/-! SUPPORT. The fields of a command word, and the decoder on a word given by its fields. -/

namespace Sys2Proof

@[simp] theorem opcOf_cmdOf (opc sel : BitVec 4) (imm : Byte) : opcOf (cmdOf opc sel imm) = opc := by
  unfold opcOf cmdOf
  ext i hi
  simp only [BitVec.getElem_extractLsb', BitVec.getLsbD_append]
  rw [if_neg (by omega), if_neg (by omega)]
  simp [show 12 + i - 8 - 4 = i by omega, BitVec.getLsbD_eq_getElem hi]

@[simp] theorem selOf_cmdOf (opc sel : BitVec 4) (imm : Byte) : selOf (cmdOf opc sel imm) = sel := by
  unfold selOf cmdOf
  ext i hi
  simp only [BitVec.getElem_extractLsb', BitVec.getLsbD_append]
  rw [if_neg (by omega), if_pos (by omega)]
  simp [show 8 + i - 8 = i by omega, BitVec.getLsbD_eq_getElem hi]

@[simp] theorem immOf_cmdOf (opc sel : BitVec 4) (imm : Byte) : immOf (cmdOf opc sel imm) = imm := by
  unfold immOf cmdOf
  ext i hi
  simp only [BitVec.getElem_extractLsb', BitVec.getLsbD_append]
  rw [if_pos (by omega)]
  simp [BitVec.getLsbD_eq_getElem hi]

/-- A command word is its three fields (R71). -/
theorem cmdOf_fields (w : CmdWord) : cmdOf (opcOf w) (selOf w) (immOf w) = w := by
  unfold cmdOf opcOf selOf immOf
  ext i hi
  rw [← BitVec.getLsbD_eq_getElem, ← BitVec.getLsbD_eq_getElem]
  simp only [BitVec.getLsbD_append, BitVec.getLsbD_extractLsb']
  by_cases h8 : i < 8
  · simp [h8]
  · by_cases h12 : i - 8 < 4
    · simp [h8, h12, show 8 + (i - 8) = i by omega]
    · simp [h8, h12, show i - 8 - 4 < 4 by omega, show 12 + (i - 8 - 4) = i by omega]

/-- The decoder on a word given by its fields. -/
theorem decode_cmdOf (opc sel : BitVec 4) (imm : Byte) (arg : Bytes) (value : Value) (h : arg.length ≤ maxArgLen) :
    decode { cmd := cmdOf opc sel imm, arg := arg, value := value }
      = decodeFields opc.toNat sel.toNat imm arg value := by
  simp [decode, h]

/-- The decoder on any command of the port. -/
theorem decode_of_arg (c : Command) (h : c.arg.length ≤ maxArgLen) :
    decode c = decodeFields (opcOf c.cmd).toNat (selOf c.cmd).toNat (immOf c.cmd) c.arg c.value := by
  simp [decode, h]

/-- A triple whose ARG is too long is no command of the port (R70). -/
theorem decode_argTooLong (c : Command) (h : ¬ c.arg.length ≤ maxArgLen) : decode c = .rejected .argTooLong := by
  simp [decode, h]

/-- A row with a zero IMM answers its own instruction. -/
theorem needZeroImm_instr {imm : Byte} {i j : Instr} (h : needZeroImm imm i = .instr j) : imm = 0 ∧ j = i := by
  unfold needZeroImm at h
  split at h
  · rename_i h0; exact ⟨h0, by cases h; rfl⟩
  · cases h

/-- A row with a zero IMM gives the instruction whose word it is. -/
theorem needZeroImm_word {imm : Byte} {i j : Instr} {o q : BitVec 4} (h : needZeroImm imm i = .instr j)
    (e : i.word = cmdOf o q 0) : j.word = cmdOf o q imm := by
  obtain ⟨rfl, rfl⟩ := needZeroImm_instr h; exact e

/-- The word of a decoded instruction. -/
theorem word_of_instr {i j : Instr} {w} (h : Decoded.instr i = .instr j) (e : i.word = w) : j.word = w := by
  cases h; exact e

/-- A row with a zero SEL. -/
theorem needZeroSel_instr {q : BitVec 4} {d : Decoded} {j : Instr} (h : needZeroSel q.toNat d = .instr j) :
    q = 0 ∧ d = .instr j := by
  unfold needZeroSel at h
  split at h
  · rename_i hq; exact ⟨BitVec.eq_of_toNat_eq hq, h⟩
  · cases h

/-- A field with a known number is that number's bits. -/
theorem eq_ofNat_of_toNat {n : Nat} {o : BitVec 4} (h : o.toNat = n) : o = BitVec.ofNat 4 n := by subst h; simp

/-- A decoded instruction has the command's word: no bit of the word is dropped (R71, R74). -/
theorem decode_instr_word {c : Command} {i : Instr} (h : decode c = .instr i) : i.word = c.cmd := by
  unfold decode at h
  split at h
  · rename_i hl
    rw [← cmdOf_fields c.cmd]
    revert h
    generalize opcOf c.cmd = o
    generalize selOf c.cmd = q
    generalize immOf c.cmd = m
    intro h
    unfold decodeFields at h
    split at h <;> (try cases (eq_ofNat_of_toNat ‹_›))
    · obtain ⟨rfl, h⟩ := needZeroSel_instr h; exact needZeroImm_word h rfl
    · obtain ⟨rfl, h⟩ := needZeroSel_instr h; exact needZeroImm_word h rfl
    · obtain ⟨rfl, h⟩ := needZeroSel_instr h
      unfold decodeProcess at h
      split at h
      · rename_i hm; subst hm; exact word_of_instr h rfl
      · split at h
        · rename_i hm; subst hm; exact word_of_instr h rfl
        · cases h
    · obtain ⟨rfl, h⟩ := needZeroSel_instr h; exact word_of_instr h rfl
    · obtain ⟨rfl, h⟩ := needZeroSel_instr h; exact needZeroImm_word h rfl
    · obtain ⟨rfl, h⟩ := needZeroSel_instr h; exact needZeroImm_word h rfl
    · unfold decodeDecode at h
      split at h <;> (try cases (eq_ofNat_of_toNat ‹_›)) <;>
        first | exact needZeroImm_word h rfl | exact word_of_instr h rfl | cases h
    · unfold decodeEncode at h
      split at h <;> (try cases (eq_ofNat_of_toNat ‹_›)) <;>
        first | exact needZeroImm_word h rfl | exact word_of_instr h rfl | cases h
    · unfold decodePair at h
      split at h <;> (try cases (eq_ofNat_of_toNat ‹_›)) <;>
        first | exact needZeroImm_word h rfl | exact word_of_instr h rfl | cases h
    · unfold decodePair at h
      split at h <;> (try cases (eq_ofNat_of_toNat ‹_›)) <;>
        first | exact needZeroImm_word h rfl | exact word_of_instr h rfl | cases h
    · unfold decodePair at h
      split at h <;> (try cases (eq_ofNat_of_toNat ‹_›)) <;>
        first | exact needZeroImm_word h rfl | exact word_of_instr h rfl | cases h
    · obtain ⟨rfl, h⟩ := needZeroSel_instr h; exact word_of_instr h rfl
    · obtain ⟨rfl, h⟩ := needZeroSel_instr h; exact needZeroImm_word h rfl
    · obtain ⟨rfl, h⟩ := needZeroSel_instr h; exact needZeroImm_word h rfl
    · cases h
  · cases h

/-- A command the port carries is never refused for its ARG (R70). -/
theorem decode_ne_argTooLong {c : Command} (h : c.arg.length ≤ maxArgLen) : decode c ≠ .rejected .argTooLong := by
  rw [decode_of_arg _ h]
  unfold decodeFields needZeroSel decodeProcess decodeDecode decodeEncode decodePair needZeroImm
  repeat' split
  all_goals simp

/-- A command the port carries decodes to an instruction or is illegal (R74). -/
theorem decode_legal_or_illegal {c : Command} (h : c.arg.length ≤ maxArgLen) :
    (∃ i, decode c = .instr i) ∨ decode c = .rejected .illegalCmd := by
  cases hd : decode c with
  | instr i => exact .inl ⟨i, rfl⟩
  | rejected r => cases r with
    | illegalCmd => exact .inr rfl
    | argTooLong => exact absurd hd (decode_ne_argTooLong h)

end Sys2Proof
end

