-- ==== Sys2Proof/Laws/Memory.lean ====
section
/-! SUPPORT. The laws of the byte stores: read after write, the canonical form kept by every operation, and the normal
form `Memory.ofBytes 0 bs` of a store that lists exactly its first bytes. -/

namespace Sys2Proof.Machine

/-! ### Reading one byte -/

@[simp] theorem Memory.read_nil (a : Nat) : Memory.read [] a = none := rfl

@[simp] theorem Memory.read_cons (k : Nat) (b : Byte) (m : Memory) (a : Nat) :
    Memory.read ((k, b) :: m) a = if k = a then some b else Memory.read m a := rfl

theorem Memory.read_write (m : Memory) (a : Nat) (b : Byte) (x : Nat) :
    Memory.read (Memory.write m a b) x = if x = a then some b else Memory.read m x := by
  induction m with
  | nil => simp [Memory.write, eq_comm]
  | cons kc m ih =>
    obtain ⟨k, c⟩ := kc
    unfold Memory.write
    by_cases hx : x = a
    · subst hx
      split
      · simp
      · split <;> simp_all
    · split
      · simp [Ne.symm hx]
      · split
        · simp_all [Ne.symm hx]
        · simp [ih, hx]

theorem Memory.read_writeBytes (m : Memory) (a : Nat) (bs : Bytes) (x : Nat) :
    Memory.read (Memory.writeBytes m a bs) x
      = if a ≤ x ∧ x < a + bs.length then bs[x - a]? else Memory.read m x := by
  induction bs generalizing m a with
  | nil => simp [Memory.writeBytes, show ¬(a ≤ x ∧ x < a) by omega]
  | cons b bs ih =>
    rw [Memory.writeBytes, ih, Memory.read_write]
    by_cases hx : x = a
    · subst hx; simp
    · by_cases h : a + 1 ≤ x ∧ x < a + 1 + bs.length
      · have h' : a ≤ x ∧ x < a + (b :: bs).length := by simp; omega
        rw [if_pos h, if_pos h', show x - a = (x - (a + 1)) + 1 by omega, List.getElem?_cons_succ]
      · have h' : ¬(a ≤ x ∧ x < a + (b :: bs).length) := by simp; omega
        rw [if_neg h, if_neg h', if_neg hx]

theorem Memory.read_shiftDown (n : Nat) (m : Memory) (x : Nat) :
    Memory.read (Memory.shiftDown n m) x = Memory.read m (x + n) := by
  induction m with
  | nil => rfl
  | cons kb m ih =>
    obtain ⟨k, b⟩ := kb
    unfold Memory.shiftDown
    split
    · simp only [Memory.read_cons, ih]
      congr 1
      simp only [eq_iff_iff]; omega
    · rw [ih, Memory.read_cons, if_neg (by omega)]

theorem Memory.read_ofBytes (a : Nat) (bs : Bytes) (x : Nat) :
    Memory.read (Memory.ofBytes a bs) x = if a ≤ x then bs[x - a]? else none := by
  induction bs generalizing a with
  | nil => simp [Memory.ofBytes]
  | cons b bs ih =>
    rw [Memory.ofBytes, Memory.read_cons, ih]
    by_cases hx : a = x
    · subst hx; simp
    · by_cases h : a + 1 ≤ x
      · rw [if_neg hx, if_pos h, if_pos (by omega), show x - a = (x - (a + 1)) + 1 by omega,
          List.getElem?_cons_succ]
      · rw [if_neg hx, if_neg h, if_neg (by omega)]

/-! ### Reading a run of bytes -/

@[simp] theorem Memory.readBytes_zero (m : Memory) (a : Nat) : Memory.readBytes m a 0 = some [] := by
  unfold Memory.readBytes; rfl

theorem Memory.readBytes_length {m : Memory} {a n : Nat} {bs : Bytes}
    (h : Memory.readBytes m a n = some bs) : bs.length = n := by
  induction n generalizing a bs with
  | zero => simp_all
  | succ n ih =>
    unfold Memory.readBytes at h
    split at h
    · rename_i hb
      cases h; simp [ih hb]
    · cases h

/-- What `MemRead` says: it answers the bytes the store gives those indices. -/
theorem Memory.readBytes_eq_some (m : Memory) (a n : Nat) (bs : Bytes) :
    Memory.readBytes m a n = some bs ↔ bs.length = n ∧ ∀ i, i < n → Memory.read m (a + i) = bs[i]? := by
  induction n generalizing a bs with
  | zero => cases bs <;> simp
  | succ n ih =>
    unfold Memory.readBytes
    constructor
    · intro h
      split at h
      · rename_i b cs hb hcs
        cases h
        obtain ⟨hl, hi⟩ := (ih _ _).mp hcs
        refine ⟨by simp [hl], fun i hin => ?_⟩
        cases i with
        | zero => simpa using hb
        | succ i => simpa [Nat.add_assoc, Nat.add_comm 1] using hi i (by omega)
      · cases h
    · rintro ⟨hl, hi⟩
      cases bs with
      | nil => simp at hl
      | cons b cs =>
        have h0 := hi 0 (by omega)
        have hcs := (ih (a + 1) cs).mpr ⟨by simpa using hl, fun i hin => by
          have := hi (i + 1) (by omega)
          simpa [Nat.add_assoc, Nat.add_comm 1] using this⟩
        simp only [Nat.add_zero, List.getElem?_cons_zero] at h0
        rw [h0, hcs]

theorem Memory.readBytes_writeBytes_after {m : Memory} {n : Nat} {bs : Bytes} (cs : Bytes)
    (h : Memory.readBytes m 0 n = some bs) :
    Memory.readBytes (Memory.writeBytes m n cs) 0 (n + cs.length) = some (bs ++ cs) := by
  obtain ⟨hl, hi⟩ := (Memory.readBytes_eq_some _ _ _ _).mp h
  refine (Memory.readBytes_eq_some _ _ _ _).mpr ⟨by simp [hl], fun i hin => ?_⟩
  rw [Memory.read_writeBytes]
  by_cases hb : n ≤ i
  · rw [if_pos (by omega), List.getElem?_append_right (by omega), Nat.zero_add, hl]
  · rw [if_neg (by omega), hi i (by omega), List.getElem?_append_left (by omega)]

theorem Memory.readBytes_shiftDown {m : Memory} {n : Nat} {bs : Bytes} (k : Nat)
    (h : Memory.readBytes m 0 n = some bs) :
    Memory.readBytes (Memory.shiftDown k m) 0 (n - k) = some (bs.drop k) := by
  obtain ⟨hl, hi⟩ := (Memory.readBytes_eq_some _ _ _ _).mp h
  refine (Memory.readBytes_eq_some _ _ _ _).mpr ⟨by simp [hl], fun i hin => ?_⟩
  rw [Memory.read_shiftDown, List.getElem?_drop]
  have := hi (i + k) (by omega)
  rw [Nat.zero_add] at this ⊢
  rw [this, Nat.add_comm]

theorem Memory.readBytes_ofBytes (bs : Bytes) :
    Memory.readBytes (Memory.ofBytes 0 bs) 0 bs.length = some bs := by
  refine (Memory.readBytes_eq_some _ _ _ _).mpr ⟨rfl, fun i _ => ?_⟩
  simp [Memory.read_ofBytes]

/-! ### The canonical form is kept -/

theorem Memory.wf_nil : Memory.wf [] := List.Pairwise.nil

theorem Memory.mem_write {m : Memory} {a : Nat} {b : Byte} {x : Host.Cell}
    (h : x ∈ Memory.write m a b) : x = (a, b) ∨ x ∈ m := by
  induction m with
  | nil => simpa [Memory.write] using h
  | cons kc m ih =>
    obtain ⟨k, c⟩ := kc
    unfold Memory.write at h
    split at h
    · simpa using h
    · split at h
      · rcases List.mem_cons.mp h with h | h
        · exact .inl h
        · exact .inr (List.mem_cons_of_mem _ h)
      · rcases List.mem_cons.mp h with h | h
        · exact .inr (h ▸ List.mem_cons_self)
        · exact (ih h).imp_right (List.mem_cons_of_mem _)

theorem Memory.write_wf {m : Memory} (h : Memory.wf m) (a : Nat) (b : Byte) :
    Memory.wf (Memory.write m a b) := by
  induction m with
  | nil => simp [Memory.write]
  | cons kc m ih =>
    obtain ⟨k, c⟩ := kc
    obtain ⟨hk, hm⟩ := List.pairwise_cons.mp h
    unfold Memory.write
    split
    · rename_i hlt
      refine List.pairwise_cons.mpr ⟨fun x hx => ?_, h⟩
      rcases List.mem_cons.mp hx with rfl | hx
      · exact hlt
      · exact Nat.lt_trans hlt (hk x hx)
    · split
      · rename_i _ heq
        subst heq
        exact List.pairwise_cons.mpr ⟨hk, hm⟩
      · refine List.pairwise_cons.mpr ⟨fun x hx => ?_, ih hm⟩
        rcases Memory.mem_write hx with rfl | hx
        · show k < a
          omega
        · exact hk x hx

theorem Memory.writeBytes_wf {m : Memory} (h : Memory.wf m) (a : Nat) (bs : Bytes) :
    Memory.wf (Memory.writeBytes m a bs) := by
  induction bs generalizing m a with
  | nil => exact h
  | cons b bs ih => exact ih (Memory.write_wf h a b) (a + 1)

theorem Memory.mem_shiftDown {n : Nat} {m : Memory} {x : Host.Cell}
    (h : x ∈ Memory.shiftDown n m) : (x.1 + n, x.2) ∈ m := by
  induction m with
  | nil => simp [Memory.shiftDown] at h
  | cons kb m ih =>
    obtain ⟨k, b⟩ := kb
    unfold Memory.shiftDown at h
    split at h
    · rcases List.mem_cons.mp h with rfl | h
      · simp [show k - n + n = k by omega]
      · exact List.mem_cons_of_mem _ (ih h)
    · exact List.mem_cons_of_mem _ (ih h)

theorem Memory.shiftDown_wf {m : Memory} (h : Memory.wf m) (n : Nat) :
    Memory.wf (Memory.shiftDown n m) := by
  induction m with
  | nil => exact h
  | cons kb m ih =>
    obtain ⟨k, b⟩ := kb
    obtain ⟨hk, hm⟩ := List.pairwise_cons.mp h
    unfold Memory.shiftDown
    split
    · refine List.pairwise_cons.mpr ⟨fun x hx => ?_, ih hm⟩
      have := hk _ (Memory.mem_shiftDown hx)
      show k - n < x.1
      simp only at this
      omega
    · exact ih hm

theorem Memory.mem_ofBytes {a : Nat} {bs : Bytes} {x : Host.Cell}
    (h : x ∈ Memory.ofBytes a bs) : a ≤ x.1 := by
  induction bs generalizing a with
  | nil => simp [Memory.ofBytes] at h
  | cons b bs ih =>
    rcases List.mem_cons.mp h with rfl | h
    · exact Nat.le_refl _
    · exact Nat.le_of_succ_le (ih h)

theorem Memory.ofBytes_wf (a : Nat) (bs : Bytes) : Memory.wf (Memory.ofBytes a bs) := by
  induction bs generalizing a with
  | nil => exact List.Pairwise.nil
  | cons b bs ih => exact List.pairwise_cons.mpr ⟨fun x hx => Memory.mem_ofBytes hx, ih (a + 1)⟩

/-! ### The normal form of a store that lists exactly its first bytes -/

theorem Memory.ofBytes_keys (a : Nat) (bs : Bytes) :
    (Memory.ofBytes a bs).map Prod.fst = List.range' a bs.length := by
  induction bs generalizing a with
  | nil => rfl
  | cons b bs ih => simp [Memory.ofBytes, ih, List.range'_succ]

theorem Memory.eq_ofBytes {m : Memory} {a n : Nat} (h : m.map Prod.fst = List.range' a n) :
    ∃ bs : Bytes, bs.length = n ∧ m = Memory.ofBytes a bs := by
  induction n generalizing a m with
  | zero =>
    cases m with
    | nil => exact ⟨[], rfl, rfl⟩
    | cons kb m => simp at h
  | succ n ih =>
    cases m with
    | nil => simp [List.range'_succ] at h
    | cons kb m =>
      obtain ⟨k, b⟩ := kb
      simp only [List.map_cons, List.range'_succ, List.cons.injEq] at h
      obtain ⟨rfl, h⟩ := h
      obtain ⟨bs, hl, rfl⟩ := ih h
      exact ⟨b :: bs, by simp [hl], rfl⟩

theorem Memory.write_ofBytes_end (a : Nat) (bs : Bytes) (b : Byte) :
    Memory.write (Memory.ofBytes a bs) (a + bs.length) b = Memory.ofBytes a (bs ++ [b]) := by
  induction bs generalizing a with
  | nil => rfl
  | cons c bs ih =>
    simp only [Memory.ofBytes, List.cons_append, List.length_cons, Memory.write]
    rw [if_neg (by omega), if_neg (by omega), ← ih (a + 1)]
    congr 2
    omega

theorem Memory.writeBytes_ofBytes_end (a : Nat) (bs cs : Bytes) :
    Memory.writeBytes (Memory.ofBytes a bs) (a + bs.length) cs = Memory.ofBytes a (bs ++ cs) := by
  induction cs generalizing bs with
  | nil => simp [Memory.writeBytes]
  | cons c cs ih =>
    have := ih (bs ++ [c])
    simp only [List.length_append, List.length_cons, List.length_nil, List.append_assoc,
      List.cons_append, List.nil_append] at this
    rw [Memory.writeBytes, Memory.write_ofBytes_end, ← this]
    rfl

theorem Memory.shiftDown_ofBytes_above (n k : Nat) (bs : Bytes) :
    Memory.shiftDown n (Memory.ofBytes (n + k) bs) = Memory.ofBytes k bs := by
  induction bs generalizing k with
  | nil => rfl
  | cons b bs ih =>
    simp only [Memory.ofBytes, Memory.shiftDown]
    rw [if_pos (by omega), show n + k + 1 = n + (k + 1) by omega, ih, show n + k - n = k by omega]

theorem Memory.shiftDown_ofBytes_below (n a : Nat) (bs : Bytes) (h : a ≤ n) :
    Memory.shiftDown n (Memory.ofBytes a bs) = Memory.ofBytes 0 (bs.drop (n - a)) := by
  induction bs generalizing a with
  | nil => simp [Memory.ofBytes, Memory.shiftDown]
  | cons b bs ih =>
    by_cases hn : a = n
    · subst hn
      simpa using Memory.shiftDown_ofBytes_above a 0 (b :: bs)
    · simp only [Memory.ofBytes, Memory.shiftDown]
      rw [if_neg (by omega), ih (a + 1) (by omega), show n - a = (n - (a + 1)) + 1 by omega, List.drop_succ_cons]

theorem Memory.shiftDown_ofBytes (n : Nat) (bs : Bytes) :
    Memory.shiftDown n (Memory.ofBytes 0 bs) = Memory.ofBytes 0 (bs.drop n) := by
  simpa using Memory.shiftDown_ofBytes_below n 0 bs (Nat.zero_le n)

end Sys2Proof.Machine
end

