-- ==== Sys2Proof/Laws/State.lean ====
section
/-! SUPPORT. One lemma per field per update of State, so that no later proof unfolds a record update. -/

namespace Sys2Proof.Machine

/-! ### `State.result` -/

@[simp] theorem State.result_cfg (s : State) (r : Result) :
    (s.result r).cfg = s.cfg := rfl
@[simp] theorem State.result_bufStore (s : State) (r : Result) :
    (s.result r).bufStore = s.bufStore := rfl
@[simp] theorem State.result_fill (s : State) (r : Result) :
    (s.result r).fill = s.fill := rfl
@[simp] theorem State.result_expLen (s : State) (r : Result) :
    (s.result r).expLen = s.expLen := rfl
@[simp] theorem State.result_hpAddr (s : State) (r : Result) :
    (s.result r).hpAddr = s.hpAddr := rfl
@[simp] theorem State.result_hpAddrValid (s : State) (r : Result) :
    (s.result r).hpAddrValid = s.hpAddrValid := rfl
@[simp] theorem State.result_ctrlAddr (s : State) (r : Result) :
    (s.result r).ctrlAddr = s.ctrlAddr := rfl
@[simp] theorem State.result_ctrlAddrValid (s : State) (r : Result) :
    (s.result r).ctrlAddrValid = s.ctrlAddrValid := rfl
@[simp] theorem State.result_grabEn (s : State) (r : Result) :
    (s.result r).grabEn = s.grabEn := rfl
@[simp] theorem State.result_grabCap (s : State) (r : Result) :
    (s.result r).grabCap = s.grabCap := rfl
@[simp] theorem State.result_grabStore (s : State) (r : Result) :
    (s.result r).grabStore = s.grabStore := rfl
@[simp] theorem State.result_grabLen (s : State) (r : Result) :
    (s.result r).grabLen = s.grabLen := rfl
@[simp] theorem State.result_status (s : State) (r : Result) :
    (s.result r).status = s.status := rfl
@[simp] theorem State.result_tx (s : State) (r : Result) :
    (s.result r).tx = s.tx := rfl
@[simp] theorem State.result_inputs (s : State) (r : Result) :
    (s.result r).inputs = s.inputs.tail := rfl
@[simp] theorem State.result_results (s : State) (r : Result) :
    (s.result r).results = s.results ++ [r] := rfl

/-! ### `State.raise` -/

@[simp] theorem State.raise_cfg (s : State) (code : StatusCode) (cause : Cause) :
    (s.raise code cause).cfg = s.cfg := rfl
@[simp] theorem State.raise_bufStore (s : State) (code : StatusCode) (cause : Cause) :
    (s.raise code cause).bufStore = s.bufStore := rfl
@[simp] theorem State.raise_fill (s : State) (code : StatusCode) (cause : Cause) :
    (s.raise code cause).fill = s.fill := rfl
@[simp] theorem State.raise_expLen (s : State) (code : StatusCode) (cause : Cause) :
    (s.raise code cause).expLen = s.expLen := rfl
@[simp] theorem State.raise_hpAddr (s : State) (code : StatusCode) (cause : Cause) :
    (s.raise code cause).hpAddr = s.hpAddr := rfl
@[simp] theorem State.raise_hpAddrValid (s : State) (code : StatusCode) (cause : Cause) :
    (s.raise code cause).hpAddrValid = s.hpAddrValid := rfl
@[simp] theorem State.raise_ctrlAddr (s : State) (code : StatusCode) (cause : Cause) :
    (s.raise code cause).ctrlAddr = s.ctrlAddr := rfl
@[simp] theorem State.raise_ctrlAddrValid (s : State) (code : StatusCode) (cause : Cause) :
    (s.raise code cause).ctrlAddrValid = s.ctrlAddrValid := rfl
@[simp] theorem State.raise_grabEn (s : State) (code : StatusCode) (cause : Cause) :
    (s.raise code cause).grabEn = s.grabEn := rfl
@[simp] theorem State.raise_grabCap (s : State) (code : StatusCode) (cause : Cause) :
    (s.raise code cause).grabCap = s.grabCap := rfl
@[simp] theorem State.raise_grabStore (s : State) (code : StatusCode) (cause : Cause) :
    (s.raise code cause).grabStore = s.grabStore := rfl
@[simp] theorem State.raise_grabLen (s : State) (code : StatusCode) (cause : Cause) :
    (s.raise code cause).grabLen = s.grabLen := rfl
@[simp] theorem State.raise_status (s : State) (code : StatusCode) (cause : Cause) :
    (s.raise code cause).status = s.status := rfl
@[simp] theorem State.raise_tx (s : State) (code : StatusCode) (cause : Cause) :
    (s.raise code cause).tx = s.tx := rfl
@[simp] theorem State.raise_inputs (s : State) (code : StatusCode) (cause : Cause) :
    (s.raise code cause).inputs = s.inputs.tail := rfl
@[simp] theorem State.raise_results (s : State) (code : StatusCode) (cause : Cause) :
    (s.raise code cause).results = s.results ++ [{ status := code, cause := cause }] := rfl

/-! ### `State.removeFront` -/

@[simp] theorem State.removeFront_cfg (s : State) (n : Nat) :
    (s.removeFront n).cfg = s.cfg := rfl
@[simp] theorem State.removeFront_bufStore (s : State) (n : Nat) :
    (s.removeFront n).bufStore = Memory.shiftDown n s.bufStore := rfl
@[simp] theorem State.removeFront_fill (s : State) (n : Nat) :
    (s.removeFront n).fill = s.fill - n := rfl
@[simp] theorem State.removeFront_expLen (s : State) (n : Nat) :
    (s.removeFront n).expLen = none := rfl
@[simp] theorem State.removeFront_hpAddr (s : State) (n : Nat) :
    (s.removeFront n).hpAddr = s.hpAddr := rfl
@[simp] theorem State.removeFront_hpAddrValid (s : State) (n : Nat) :
    (s.removeFront n).hpAddrValid = s.hpAddrValid := rfl
@[simp] theorem State.removeFront_ctrlAddr (s : State) (n : Nat) :
    (s.removeFront n).ctrlAddr = s.ctrlAddr := rfl
@[simp] theorem State.removeFront_ctrlAddrValid (s : State) (n : Nat) :
    (s.removeFront n).ctrlAddrValid = s.ctrlAddrValid := rfl
@[simp] theorem State.removeFront_grabEn (s : State) (n : Nat) :
    (s.removeFront n).grabEn = s.grabEn := rfl
@[simp] theorem State.removeFront_grabCap (s : State) (n : Nat) :
    (s.removeFront n).grabCap = s.grabCap := rfl
@[simp] theorem State.removeFront_grabStore (s : State) (n : Nat) :
    (s.removeFront n).grabStore = s.grabStore := rfl
@[simp] theorem State.removeFront_grabLen (s : State) (n : Nat) :
    (s.removeFront n).grabLen = s.grabLen := rfl
@[simp] theorem State.removeFront_status (s : State) (n : Nat) :
    (s.removeFront n).status = s.status := rfl
@[simp] theorem State.removeFront_tx (s : State) (n : Nat) :
    (s.removeFront n).tx = s.tx := rfl
@[simp] theorem State.removeFront_inputs (s : State) (n : Nat) :
    (s.removeFront n).inputs = s.inputs := rfl
@[simp] theorem State.removeFront_results (s : State) (n : Nat) :
    (s.removeFront n).results = s.results := rfl

/-! ### `State.appendBytes` -/

@[simp] theorem State.appendBytes_cfg (s : State) (bs : Bytes) :
    (s.appendBytes bs).cfg = s.cfg := rfl
@[simp] theorem State.appendBytes_bufStore (s : State) (bs : Bytes) :
    (s.appendBytes bs).bufStore = Memory.writeBytes s.bufStore s.fill bs := rfl
@[simp] theorem State.appendBytes_fill (s : State) (bs : Bytes) :
    (s.appendBytes bs).fill = s.fill + bs.length := rfl
@[simp] theorem State.appendBytes_expLen (s : State) (bs : Bytes) :
    (s.appendBytes bs).expLen = s.expLen := rfl
@[simp] theorem State.appendBytes_hpAddr (s : State) (bs : Bytes) :
    (s.appendBytes bs).hpAddr = s.hpAddr := rfl
@[simp] theorem State.appendBytes_hpAddrValid (s : State) (bs : Bytes) :
    (s.appendBytes bs).hpAddrValid = s.hpAddrValid := rfl
@[simp] theorem State.appendBytes_ctrlAddr (s : State) (bs : Bytes) :
    (s.appendBytes bs).ctrlAddr = s.ctrlAddr := rfl
@[simp] theorem State.appendBytes_ctrlAddrValid (s : State) (bs : Bytes) :
    (s.appendBytes bs).ctrlAddrValid = s.ctrlAddrValid := rfl
@[simp] theorem State.appendBytes_grabEn (s : State) (bs : Bytes) :
    (s.appendBytes bs).grabEn = s.grabEn := rfl
@[simp] theorem State.appendBytes_grabCap (s : State) (bs : Bytes) :
    (s.appendBytes bs).grabCap = s.grabCap := rfl
@[simp] theorem State.appendBytes_grabStore (s : State) (bs : Bytes) :
    (s.appendBytes bs).grabStore = s.grabStore := rfl
@[simp] theorem State.appendBytes_grabLen (s : State) (bs : Bytes) :
    (s.appendBytes bs).grabLen = s.grabLen := rfl
@[simp] theorem State.appendBytes_status (s : State) (bs : Bytes) :
    (s.appendBytes bs).status = s.status := rfl
@[simp] theorem State.appendBytes_tx (s : State) (bs : Bytes) :
    (s.appendBytes bs).tx = s.tx := rfl
@[simp] theorem State.appendBytes_inputs (s : State) (bs : Bytes) :
    (s.appendBytes bs).inputs = s.inputs := rfl
@[simp] theorem State.appendBytes_results (s : State) (bs : Bytes) :
    (s.appendBytes bs).results = s.results := rfl

/-! ### `State.emitTx` -/

@[simp] theorem State.emitTx_cfg (s : State) (frame : Bytes) :
    (s.emitTx frame).cfg = s.cfg := rfl
@[simp] theorem State.emitTx_bufStore (s : State) (frame : Bytes) :
    (s.emitTx frame).bufStore = s.bufStore := rfl
@[simp] theorem State.emitTx_fill (s : State) (frame : Bytes) :
    (s.emitTx frame).fill = s.fill := rfl
@[simp] theorem State.emitTx_expLen (s : State) (frame : Bytes) :
    (s.emitTx frame).expLen = s.expLen := rfl
@[simp] theorem State.emitTx_hpAddr (s : State) (frame : Bytes) :
    (s.emitTx frame).hpAddr = s.hpAddr := rfl
@[simp] theorem State.emitTx_hpAddrValid (s : State) (frame : Bytes) :
    (s.emitTx frame).hpAddrValid = s.hpAddrValid := rfl
@[simp] theorem State.emitTx_ctrlAddr (s : State) (frame : Bytes) :
    (s.emitTx frame).ctrlAddr = s.ctrlAddr := rfl
@[simp] theorem State.emitTx_ctrlAddrValid (s : State) (frame : Bytes) :
    (s.emitTx frame).ctrlAddrValid = s.ctrlAddrValid := rfl
@[simp] theorem State.emitTx_grabEn (s : State) (frame : Bytes) :
    (s.emitTx frame).grabEn = s.grabEn := rfl
@[simp] theorem State.emitTx_grabCap (s : State) (frame : Bytes) :
    (s.emitTx frame).grabCap = s.grabCap := rfl
@[simp] theorem State.emitTx_grabStore (s : State) (frame : Bytes) :
    (s.emitTx frame).grabStore = s.grabStore := rfl
@[simp] theorem State.emitTx_grabLen (s : State) (frame : Bytes) :
    (s.emitTx frame).grabLen = s.grabLen := rfl
@[simp] theorem State.emitTx_status (s : State) (frame : Bytes) :
    (s.emitTx frame).status = s.status := rfl
@[simp] theorem State.emitTx_tx (s : State) (frame : Bytes) :
    (s.emitTx frame).tx = s.tx ++ [frame] := rfl
@[simp] theorem State.emitTx_inputs (s : State) (frame : Bytes) :
    (s.emitTx frame).inputs = s.inputs := rfl
@[simp] theorem State.emitTx_results (s : State) (frame : Bytes) :
    (s.emitTx frame).results = s.results := rfl

/-! ### `State.grab` -/

@[simp] theorem State.grab_cfg (s : State) (m : Nat) (buf : Bytes) : (s.grab m buf).cfg = s.cfg := by
  unfold State.grab; split <;> rfl
@[simp] theorem State.grab_bufStore (s : State) (m : Nat) (buf : Bytes) : (s.grab m buf).bufStore = s.bufStore := by
  unfold State.grab; split <;> rfl
@[simp] theorem State.grab_fill (s : State) (m : Nat) (buf : Bytes) : (s.grab m buf).fill = s.fill := by
  unfold State.grab; split <;> rfl
@[simp] theorem State.grab_expLen (s : State) (m : Nat) (buf : Bytes) : (s.grab m buf).expLen = s.expLen := by
  unfold State.grab; split <;> rfl
@[simp] theorem State.grab_hpAddr (s : State) (m : Nat) (buf : Bytes) : (s.grab m buf).hpAddr = s.hpAddr := by
  unfold State.grab; split <;> rfl
@[simp] theorem State.grab_hpAddrValid (s : State) (m : Nat) (buf : Bytes) : (s.grab m buf).hpAddrValid = s.hpAddrValid := by
  unfold State.grab; split <;> rfl
@[simp] theorem State.grab_ctrlAddr (s : State) (m : Nat) (buf : Bytes) : (s.grab m buf).ctrlAddr = s.ctrlAddr := by
  unfold State.grab; split <;> rfl
@[simp] theorem State.grab_ctrlAddrValid (s : State) (m : Nat) (buf : Bytes) : (s.grab m buf).ctrlAddrValid = s.ctrlAddrValid := by
  unfold State.grab; split <;> rfl
@[simp] theorem State.grab_grabEn (s : State) (m : Nat) (buf : Bytes) : (s.grab m buf).grabEn = s.grabEn := by
  unfold State.grab; split <;> rfl
@[simp] theorem State.grab_grabCap (s : State) (m : Nat) (buf : Bytes) : (s.grab m buf).grabCap = s.grabCap := by
  unfold State.grab; split <;> rfl
@[simp] theorem State.grab_status (s : State) (m : Nat) (buf : Bytes) : (s.grab m buf).status = s.status := by
  unfold State.grab; split <;> rfl
@[simp] theorem State.grab_tx (s : State) (m : Nat) (buf : Bytes) : (s.grab m buf).tx = s.tx := by
  unfold State.grab; split <;> rfl
@[simp] theorem State.grab_inputs (s : State) (m : Nat) (buf : Bytes) : (s.grab m buf).inputs = s.inputs := by
  unfold State.grab; split <;> rfl
@[simp] theorem State.grab_results (s : State) (m : Nat) (buf : Bytes) : (s.grab m buf).results = s.results := by
  unfold State.grab; split <;> rfl

@[simp] theorem State.grab_grabLen (s : State) (m : Nat) (buf : Bytes) :
    (s.grab m buf).grabLen = if s.grabEn then min m s.grabCap else s.grabLen := by
  unfold State.grab; split <;> rfl
@[simp] theorem State.grab_grabStore (s : State) (m : Nat) (buf : Bytes) :
    (s.grab m buf).grabStore = if s.grabEn then Memory.ofBytes 0 (buf.take (min m s.grabCap)) else s.grabStore := by
  unfold State.grab; split <;> rfl

/-! ### `State.project` -/

@[simp] theorem State.project_cfg (s : State) (w : Option (Nat × StatusEntry)) : (s.project w).cfg = s.cfg := by
  unfold State.project; split <;> rfl
@[simp] theorem State.project_bufStore (s : State) (w : Option (Nat × StatusEntry)) : (s.project w).bufStore = s.bufStore := by
  unfold State.project; split <;> rfl
@[simp] theorem State.project_fill (s : State) (w : Option (Nat × StatusEntry)) : (s.project w).fill = s.fill := by
  unfold State.project; split <;> rfl
@[simp] theorem State.project_expLen (s : State) (w : Option (Nat × StatusEntry)) : (s.project w).expLen = s.expLen := by
  unfold State.project; split <;> rfl
@[simp] theorem State.project_hpAddr (s : State) (w : Option (Nat × StatusEntry)) : (s.project w).hpAddr = s.hpAddr := by
  unfold State.project; split <;> rfl
@[simp] theorem State.project_hpAddrValid (s : State) (w : Option (Nat × StatusEntry)) : (s.project w).hpAddrValid = s.hpAddrValid := by
  unfold State.project; split <;> rfl
@[simp] theorem State.project_ctrlAddr (s : State) (w : Option (Nat × StatusEntry)) : (s.project w).ctrlAddr = s.ctrlAddr := by
  unfold State.project; split <;> rfl
@[simp] theorem State.project_ctrlAddrValid (s : State) (w : Option (Nat × StatusEntry)) : (s.project w).ctrlAddrValid = s.ctrlAddrValid := by
  unfold State.project; split <;> rfl
@[simp] theorem State.project_grabEn (s : State) (w : Option (Nat × StatusEntry)) : (s.project w).grabEn = s.grabEn := by
  unfold State.project; split <;> rfl
@[simp] theorem State.project_grabCap (s : State) (w : Option (Nat × StatusEntry)) : (s.project w).grabCap = s.grabCap := by
  unfold State.project; split <;> rfl
@[simp] theorem State.project_grabStore (s : State) (w : Option (Nat × StatusEntry)) : (s.project w).grabStore = s.grabStore := by
  unfold State.project; split <;> rfl
@[simp] theorem State.project_grabLen (s : State) (w : Option (Nat × StatusEntry)) : (s.project w).grabLen = s.grabLen := by
  unfold State.project; split <;> rfl
@[simp] theorem State.project_tx (s : State) (w : Option (Nat × StatusEntry)) : (s.project w).tx = s.tx := by
  unfold State.project; split <;> rfl
@[simp] theorem State.project_inputs (s : State) (w : Option (Nat × StatusEntry)) : (s.project w).inputs = s.inputs := by
  unfold State.project; split <;> rfl
@[simp] theorem State.project_results (s : State) (w : Option (Nat × StatusEntry)) : (s.project w).results = s.results := by
  unfold State.project; split <;> rfl

@[simp] theorem State.project_none (s : State) : s.project none = s := rfl
@[simp] theorem State.project_some_status (s : State) (f : Nat) (e : StatusEntry) :
    (s.project (some (f, e))).status = s.status.set f (some e) := rfl
@[simp] theorem State.project_status_length (s : State) (w : Option (Nat × StatusEntry)) :
    (s.project w).status.length = s.status.length := by
  unfold State.project; split <;> simp

/-! ### `finishFrame` -/

@[simp] theorem finishFrame_cfg (nc : Bool) (len : Nat) (s : State) : (finishFrame nc len s).cfg = s.cfg := by
  cases nc <;> rfl
@[simp] theorem finishFrame_hpAddr (nc : Bool) (len : Nat) (s : State) : (finishFrame nc len s).hpAddr = s.hpAddr := by
  cases nc <;> rfl
@[simp] theorem finishFrame_hpAddrValid (nc : Bool) (len : Nat) (s : State) : (finishFrame nc len s).hpAddrValid = s.hpAddrValid := by
  cases nc <;> rfl
@[simp] theorem finishFrame_ctrlAddr (nc : Bool) (len : Nat) (s : State) : (finishFrame nc len s).ctrlAddr = s.ctrlAddr := by
  cases nc <;> rfl
@[simp] theorem finishFrame_ctrlAddrValid (nc : Bool) (len : Nat) (s : State) : (finishFrame nc len s).ctrlAddrValid = s.ctrlAddrValid := by
  cases nc <;> rfl
@[simp] theorem finishFrame_grabEn (nc : Bool) (len : Nat) (s : State) : (finishFrame nc len s).grabEn = s.grabEn := by
  cases nc <;> rfl
@[simp] theorem finishFrame_grabCap (nc : Bool) (len : Nat) (s : State) : (finishFrame nc len s).grabCap = s.grabCap := by
  cases nc <;> rfl
@[simp] theorem finishFrame_grabStore (nc : Bool) (len : Nat) (s : State) : (finishFrame nc len s).grabStore = s.grabStore := by
  cases nc <;> rfl
@[simp] theorem finishFrame_grabLen (nc : Bool) (len : Nat) (s : State) : (finishFrame nc len s).grabLen = s.grabLen := by
  cases nc <;> rfl
@[simp] theorem finishFrame_status (nc : Bool) (len : Nat) (s : State) : (finishFrame nc len s).status = s.status := by
  cases nc <;> rfl
@[simp] theorem finishFrame_tx (nc : Bool) (len : Nat) (s : State) : (finishFrame nc len s).tx = s.tx := by
  cases nc <;> rfl
@[simp] theorem finishFrame_inputs (nc : Bool) (len : Nat) (s : State) : (finishFrame nc len s).inputs = s.inputs := by
  cases nc <;> rfl
@[simp] theorem finishFrame_results (nc : Bool) (len : Nat) (s : State) : (finishFrame nc len s).results = s.results := by
  cases nc <;> rfl
@[simp] theorem finishFrame_true (len : Nat) (s : State) :
    finishFrame true len s = { s with expLen := some len } := rfl
@[simp] theorem finishFrame_false (len : Nat) (s : State) : finishFrame false len s = s.removeFront len := rfl

/-! ### `State.initial` and `takeReset` -/

@[simp] theorem State.initial_cfg (c : Config) : (State.initial c).cfg = c := rfl
@[simp] theorem State.initial_bufStore (c : Config) : (State.initial c).bufStore = [] := rfl
@[simp] theorem State.initial_fill (c : Config) : (State.initial c).fill = 0 := rfl
@[simp] theorem State.initial_expLen (c : Config) : (State.initial c).expLen = none := rfl
@[simp] theorem State.initial_hpAddrValid (c : Config) : (State.initial c).hpAddrValid = false := rfl
@[simp] theorem State.initial_ctrlAddrValid (c : Config) : (State.initial c).ctrlAddrValid = false := rfl
@[simp] theorem State.initial_grabEn (c : Config) : (State.initial c).grabEn = false := rfl
@[simp] theorem State.initial_grabCap (c : Config) : (State.initial c).grabCap = 0 := rfl
@[simp] theorem State.initial_grabStore (c : Config) : (State.initial c).grabStore = [] := rfl
@[simp] theorem State.initial_grabLen (c : Config) : (State.initial c).grabLen = 0 := rfl
@[simp] theorem State.initial_status (c : Config) : (State.initial c).status = List.replicate c.nstatus none := rfl
@[simp] theorem State.initial_tx (c : Config) : (State.initial c).tx = [] := rfl
@[simp] theorem State.initial_inputs (c : Config) : (State.initial c).inputs = [] := rfl
@[simp] theorem State.initial_results (c : Config) : (State.initial c).results = [] := rfl
@[simp] theorem takeReset_cfg (s : State) : (takeReset s).cfg = s.cfg := rfl
@[simp] theorem takeReset_bufStore (s : State) : (takeReset s).bufStore = [] := rfl
@[simp] theorem takeReset_fill (s : State) : (takeReset s).fill = 0 := rfl
@[simp] theorem takeReset_expLen (s : State) : (takeReset s).expLen = none := rfl
@[simp] theorem takeReset_hpAddrValid (s : State) : (takeReset s).hpAddrValid = false := rfl
@[simp] theorem takeReset_ctrlAddrValid (s : State) : (takeReset s).ctrlAddrValid = false := rfl
@[simp] theorem takeReset_grabEn (s : State) : (takeReset s).grabEn = false := rfl
@[simp] theorem takeReset_grabCap (s : State) : (takeReset s).grabCap = 0 := rfl
@[simp] theorem takeReset_grabStore (s : State) : (takeReset s).grabStore = [] := rfl
@[simp] theorem takeReset_grabLen (s : State) : (takeReset s).grabLen = 0 := rfl
@[simp] theorem takeReset_status (s : State) : (takeReset s).status = List.replicate s.cfg.nstatus none := rfl
@[simp] theorem takeReset_tx (s : State) : (takeReset s).tx = [] := rfl
@[simp] theorem takeReset_inputs (s : State) : (takeReset s).inputs = s.inputs.tail := rfl
@[simp] theorem takeReset_results (s : State) : (takeReset s).results = s.results := rfl

end Sys2Proof.Machine
end

