-- ==== Sys2Proof/Laws/Ops.lean ====
section
/-! SUPPORT. What the shared operations do to the incoming buffer and the grab store, said once. -/

namespace Sys2Proof.Machine

/-! ### The incoming buffer -/

theorem State.buf_length {s : State} {b : Bytes} (h : s.buf = some b) : b.length = s.fill :=
  Memory.readBytes_length h

theorem State.buf_congr {s t : State} (hm : t.bufStore = s.bufStore) (hf : t.fill = s.fill) : t.buf = s.buf := by
  unfold State.buf; rw [hm, hf]

@[simp] theorem State.buf_result (s : State) (r : Result) : (s.result r).buf = s.buf := rfl
@[simp] theorem State.buf_raise (s : State) (code : StatusCode) (cause : Cause) : (s.raise code cause).buf = s.buf := rfl
@[simp] theorem State.buf_emitTx (s : State) (f : Bytes) : (s.emitTx f).buf = s.buf := rfl
@[simp] theorem State.buf_grab (s : State) (m : Nat) (buf : Bytes) : (s.grab m buf).buf = s.buf :=
  State.buf_congr (by simp) (by simp)
@[simp] theorem State.buf_project (s : State) (w : Option (Nat × StatusEntry)) : (s.project w).buf = s.buf :=
  State.buf_congr (by simp) (by simp)

/-- APPEND's store adds the bytes behind the buffered ones (R111, R115). -/
theorem State.buf_appendBytes {s : State} {b : Bytes} (cs : Bytes) (h : s.buf = some b) :
    (s.appendBytes cs).buf = some (b ++ cs) :=
  Memory.readBytes_writeBytes_after cs h

/-- Removing a prefix leaves the rest in order (R112, R153). -/
theorem State.buf_removeFront {s : State} {b : Bytes} (n : Nat) (h : s.buf = some b) :
    (s.removeFront n).buf = some (b.drop n) :=
  Memory.readBytes_shiftDown n h

/-- The byte at an index of the buffer is the store's. -/
theorem State.buf_read {s : State} {b : Bytes} (h : s.buf = some b) {i : Nat} (hi : i < s.fill) :
    Memory.read s.bufStore i = some (byteAt b i) := by
  obtain ⟨hl, hr⟩ := (Memory.readBytes_eq_some _ _ _ _).mp h
  have := hr i hi
  rw [Nat.zero_add] at this
  rw [this]
  unfold byteAt
  rw [List.getD_eq_getElem?_getD, List.getElem?_eq_getElem (by omega)]
  rfl

/-! ### The grab store -/

/-- With the sink on, the grab holds the first `min m GRAB_CAP` bytes of the buffer (R154). -/
theorem State.grabBytes_grab {s : State} {buf : Bytes} (m : Nat) (hen : s.grabEn = true) (hm : m ≤ buf.length) :
    (s.grab m buf).grabBytes = some (buf.take (min m s.grabCap)) := by
  have h := Memory.readBytes_ofBytes (buf.take (min m s.grabCap))
  rw [List.length_take, Nat.min_eq_left (show min m s.grabCap ≤ buf.length by omega)] at h
  rw [State.grabBytes, State.grab_grabStore, State.grab_grabLen, if_pos hen, if_pos hen, h]

/-! ### The normal form that the invariant gives the stores -/

theorem State.Inv.bufNormal {s : State} (h : s.Inv) :
    ∃ b : Bytes, b.length = s.fill ∧ s.bufStore = Memory.ofBytes 0 b ∧ s.buf = some b := by
  have hk := h.bufKeys
  rw [List.range_eq_range'] at hk
  obtain ⟨b, hl, hb⟩ := Memory.eq_ofBytes hk
  refine ⟨b, hl, hb, ?_⟩
  unfold State.buf
  rw [hb, ← hl]
  exact Memory.readBytes_ofBytes b

theorem State.Inv.grabNormal {s : State} (h : s.Inv) :
    ∃ g : Bytes, g.length = s.grabLen ∧ s.grabStore = Memory.ofBytes 0 g ∧ s.grabBytes = some g := by
  have hk := h.grabKeys
  rw [List.range_eq_range'] at hk
  obtain ⟨g, hl, hg⟩ := Memory.eq_ofBytes hk
  refine ⟨g, hl, hg, ?_⟩
  unfold State.grabBytes
  rw [hg, ← hl]
  exact Memory.readBytes_ofBytes g

theorem Memory.ofBytes_keys_range (bs : Bytes) : (Memory.ofBytes 0 bs).map Prod.fst = List.range bs.length := by
  rw [Memory.ofBytes_keys, List.range_eq_range']

/-- The stores of a legal instance are in canonical form. -/
theorem State.Inv.stores_wf {s : State} (h : s.Inv) : Memory.wf s.bufStore ∧ Memory.wf s.grabStore := by
  obtain ⟨b, -, hb, -⟩ := h.bufNormal
  obtain ⟨g, -, hg, -⟩ := h.grabNormal
  rw [hb, hg]
  exact ⟨Memory.ofBytes_wf 0 b, Memory.ofBytes_wf 0 g⟩

/-- The stores of the reset state are in canonical form. -/
theorem State.reset_stores_wf : Memory.wf State.reset.bufStore ∧ Memory.wf State.reset.grabStore :=
  ⟨Memory.wf_nil, Memory.wf_nil⟩

end Sys2Proof.Machine
end

