-- ==== Sys2Proof/Laws/Process.lean ====
section
/-! SUPPORT. What one PROCESS step and its dispatch can do, said once (spec/42_assembler.md R140 to R155): the provers
cite these instead of unfolding the step. -/

namespace Sys2Proof.Machine

/-! ### Slices of the buffer and of a frame at its front -/

theorem sliceOf_zero (b : Bytes) (n : Nat) : sliceOf b 0 n = b.take n := by simp [sliceOf]

theorem byteAt_take {b : Bytes} {i n : Nat} (h : i < n) : byteAt (b.take n) i = byteAt b i := by
  simp [byteAt, List.getD_eq_getElem?_getD, h]

theorem byteAt_append_left {a b : Bytes} {i : Nat} (h : i < a.length) : byteAt (a ++ b) i = byteAt a i := by
  simp [byteAt, List.getD_eq_getElem?_getD, List.getElem?_append_left h]

/-- A frame's declared length exceeds its header. -/
theorem hdrLen_lt_frameLen (b : Bytes) : hdrLen < frameLen b := by unfold frameLen; omega

/-- The length byte of the frame at the front of the buffer is the buffer's. -/
theorem payloadLen_take {b : Bytes} {n : Nat} (h : 9 < n) : payloadLen (b.take n) = payloadLen b := by
  unfold payloadLen; rw [byteAt_take h]

theorem frameLen_take {b : Bytes} {n : Nat} (h : 9 < n) : frameLen (b.take n) = frameLen b := by
  unfold frameLen; rw [payloadLen_take h]

theorem frameLen_append {a : Bytes} (b : Bytes) (h : 9 < a.length) : frameLen (a ++ b) = frameLen a := by
  unfold frameLen payloadLen; rw [byteAt_append_left h]

/-- The register id of the frame at the front of the buffer. -/
theorem frameRegId_take {b : Bytes} {n : Nat} (h : 20 ≤ n) : frameRegId (b.take n) = (b.drop 11).take 9 := by
  unfold frameRegId sliceOf
  rw [List.drop_take, List.take_take]
  congr 1; omega

/-- The payload of the frame at the front of the buffer. -/
theorem framePayload_take (b : Bytes) : framePayload (b.take (frameLen b)) = (b.drop 20).take (byteAt b 9).toNat := by
  have h9 : 9 < frameLen b := by unfold frameLen hdrLen; omega
  unfold framePayload sliceOf
  rw [payloadLen_take h9, List.drop_take, List.take_take]
  unfold frameLen payloadLen hdrLen
  congr 1; omega

/-! ### The checksum comparison -/

/-- The checksum PROCESS computes is the one of the frame without its last byte (R134, R145). -/
theorem crcMatches_iff (c : Config) (b : Bytes) :
    CrcMatches c b ↔ crc8 c b 0 (frameLen b - 1) = byteAt b (frameLen b - 1) := by
  unfold CrcMatches crc8; rw [Nat.zero_add, sliceOf_zero]

/-! ### The two PROCESS commands -/

theorem exec_processCmd (nc : Bool) (s : State) : exec (processCmd nc) s = processIn nc s := by
  cases nc <;> rfl

/-- PROCESS on a buffer whose bytes have values is its step, and never stops. -/
theorem exec_processCmd_of_buf {s : State} {b : Bytes} (nc : Bool) (h : s.buf = some b) :
    exec (processCmd nc) s = .next (processStep nc b s) := by
  rw [exec_processCmd, processIn, h]

/-- PROCESS answers a next state only on a buffer whose bytes have values. -/
theorem exec_processCmd_next {s t : State} {nc : Bool} (h : exec (processCmd nc) s = .next t) :
    ∃ b, s.buf = some b ∧ t = processStep nc b s := by
  rw [exec_processCmd, processIn] at h
  split at h
  · rename_i b hb; exact ⟨b, hb, by cases h; rfl⟩
  · cases h

/-! ### The step, case by case -/

theorem processStep_short {nc : Bool} {b : Bytes} {s : State} (h : b.length < hdrLen) :
    processStep nc b s = s.result {} := by
  unfold processStep; rw [if_pos h]

theorem processStep_header {nc : Bool} {b : Bytes} {s : State} (h : hdrLen ≤ b.length) (hc : s.cfg.cap < frameLen b) :
    processStep nc b s
      = ((s.grab hdrLen b).removeFront 1).result { resClass := .corrupted, cause := .header } := by
  unfold processStep; rw [if_neg (by omega)]; exact if_pos hc

theorem processStep_incomplete {nc : Bool} {b : Bytes} {s : State} (h : hdrLen ≤ b.length)
    (hc : frameLen b ≤ s.cfg.cap) (hl : b.length < frameLen b) :
    processStep nc b s = ({ s with expLen := some (frameLen b) } : State).result {} := by
  unfold processStep; rw [if_neg (by omega)]
  exact (if_neg (by omega)).trans (if_pos hl)

theorem processStep_badCrc {nc : Bool} {b : Bytes} {s : State} (h : hdrLen ≤ b.length)
    (hc : frameLen b ≤ s.cfg.cap) (hl : frameLen b ≤ b.length) (hm : ¬ CrcMatches s.cfg b) :
    processStep nc b s
      = ((s.grab (frameLen b) b).removeFront (frameLen b)).result { resClass := .corrupted, cause := .crc } := by
  unfold processStep; rw [if_neg (by omega)]
  refine (if_neg (by omega)).trans ((if_neg (by omega)).trans (if_pos ?_))
  exact fun he => hm ((crcMatches_iff _ _).mpr he)

theorem processStep_frame {nc : Bool} {b : Bytes} {s : State} (h : hdrLen ≤ b.length)
    (hc : frameLen b ≤ s.cfg.cap) (hl : frameLen b ≤ b.length) (hm : CrcMatches s.cfg b) :
    processStep nc b s
      = (finishFrame nc (frameLen b)
          ((s.grab (frameLen b) b).project (dispatchFrame s.cfg (b.take (frameLen b))).write)).result
        (dispatchFrame s.cfg (b.take (frameLen b))).out := by
  unfold processStep; rw [if_neg (by omega)]
  refine (if_neg (by omega)).trans ((if_neg (by omega)).trans (if_neg ?_))
  exact not_not_intro ((crcMatches_iff _ _).mp hm)

/-- Everything a PROCESS step can do. -/
theorem processStep_cases (nc : Bool) (b : Bytes) (s : State) :
    (b.length < hdrLen ∧ processStep nc b s = s.result {}) ∨
    (hdrLen ≤ b.length ∧ s.cfg.cap < frameLen b ∧ processStep nc b s
      = ((s.grab hdrLen b).removeFront 1).result { resClass := .corrupted, cause := .header }) ∨
    (hdrLen ≤ b.length ∧ frameLen b ≤ s.cfg.cap ∧ b.length < frameLen b ∧ processStep nc b s
      = ({ s with expLen := some (frameLen b) } : State).result {}) ∨
    (hdrLen ≤ b.length ∧ frameLen b ≤ s.cfg.cap ∧ frameLen b ≤ b.length ∧ ¬ CrcMatches s.cfg b ∧ processStep nc b s
      = ((s.grab (frameLen b) b).removeFront (frameLen b)).result { resClass := .corrupted, cause := .crc }) ∨
    (hdrLen ≤ b.length ∧ frameLen b ≤ s.cfg.cap ∧ frameLen b ≤ b.length ∧ CrcMatches s.cfg b ∧ processStep nc b s
      = (finishFrame nc (frameLen b)
          ((s.grab (frameLen b) b).project (dispatchFrame s.cfg (b.take (frameLen b))).write)).result
        (dispatchFrame s.cfg (b.take (frameLen b))).out) := by
  by_cases h : b.length < hdrLen
  · exact .inl ⟨h, processStep_short h⟩
  have h := Nat.le_of_not_lt h
  by_cases hc : s.cfg.cap < frameLen b
  · exact .inr (.inl ⟨h, hc, processStep_header h hc⟩)
  have hc := Nat.le_of_not_lt hc
  by_cases hl : b.length < frameLen b
  · exact .inr (.inr (.inl ⟨h, hc, hl, processStep_incomplete h hc hl⟩))
  have hl := Nat.le_of_not_lt hl
  by_cases hm : CrcMatches s.cfg b
  · exact .inr (.inr (.inr (.inr ⟨h, hc, hl, hm, processStep_frame h hc hl hm⟩)))
  · exact .inr (.inr (.inr (.inl ⟨h, hc, hl, hm, processStep_badCrc h hc hl hm⟩)))

/-- A PROCESS step adds exactly one record. -/
theorem processStep_results (nc : Bool) (b : Bytes) (s : State) :
    ∃ r, (processStep nc b s).results = s.results ++ [r] := by
  obtain ⟨-, h⟩ | ⟨-, -, h⟩ | ⟨-, -, -, h⟩ | ⟨-, -, -, -, h⟩ | ⟨-, -, -, -, h⟩ := processStep_cases nc b s
  · exact ⟨{}, by rw [h]; simp⟩
  · exact ⟨{ resClass := .corrupted, cause := .header }, by rw [h]; simp⟩
  · exact ⟨{}, by rw [h]; simp⟩
  · exact ⟨{ resClass := .corrupted, cause := .crc }, by rw [h]; simp⟩
  · exact ⟨(dispatchFrame s.cfg (b.take (frameLen b))).out, by rw [h]; simp⟩

/-! ### The dispatch, case by case -/

/-- Everything the dispatch of a CRC-valid frame can answer (R147 to R152). -/
theorem dispatchFrame_cases (c : Config) (f : Bytes) :
    ((wireDir c (byteAt f 8) = none ∨ wireOp c (byteAt f 10) = none) ∧ dispatchFrame c f
      = { out := { resClass := .unknown, disp := .badDiscriminator, frame := some (frameRecord c f) }, write := none }) ∨
    (∃ dir op, wireDir c (byteAt f 8) = some dir ∧ wireOp c (byteAt f 10) = some op ∧
      ((findRegister c (frameRegId f) = none ∧ dispatchFrame c f
        = { out := { resClass := .unknown, disp := .noRegister, frame := some (frameRecord c f) }, write := none }) ∨
      ∃ desc, findRegister c (frameRegId f) = some desc ∧
        ((behaviour desc dir op = none ∧ dispatchFrame c f
          = { out := { resClass := classOfDir dir, disp := .unsupported, frame := some (frameRecord c f) },
              write := none }) ∨
        ∃ k, behaviour desc dir op = some k ∧ dispatchFrame c f = dispatchDecode c desc dir k f))) := by
  unfold dispatchFrame
  cases hd : wireDir c (byteAt f 8) with
  | none => exact .inl ⟨.inl rfl, by simp⟩
  | some dir =>
    cases ho : wireOp c (byteAt f 10) with
    | none => exact .inl ⟨.inr rfl, by simp⟩
    | some op =>
      refine .inr ⟨dir, op, rfl, rfl, ?_⟩
      cases hf : findRegister c (frameRegId f) with
      | none => exact .inl ⟨rfl, by simp⟩
      | some desc =>
        refine .inr ⟨desc, rfl, ?_⟩
        cases hb : behaviour desc dir op with
        | none => exact .inl ⟨rfl, by simp [hb]⟩
        | some k => exact .inr ⟨k, rfl, by simp [hb]⟩

/-- Everything the decode dispatch can answer (R151, R152). -/
theorem dispatchDecode_cases (c : Config) (desc : Descriptor) (dir : WireDir) (k : Kind) (f : Bytes) :
    (∃ cause, decodeKernel c k desc.dparam (framePayload f) = .fault cause ∧ dispatchDecode c desc dir k f
      = { out := { resClass := classOfDir dir, kind := kindCode k, disp := .decodeFault, cause := causeOf cause,
                   frame := some (frameRecord c f) }, write := none }) ∨
    (∃ v bs, decodeKernel c k desc.dparam (framePayload f) = .ok v bs ∧ dispatchDecode c desc dir k f
      = { out := { resClass := classOfDir dir, kind := kindCode k, disp := .ok, value := v, bytes := bs, valid := true,
                   field := projectedField desc dir, frame := some (frameRecord c f) },
          write := (projectedField desc dir).map fun i => (i, { kind := k, value := v, bytes := bs }) }) := by
  unfold dispatchDecode
  split
  · rename_i cause h; exact .inl ⟨cause, h, by simp⟩
  · rename_i v bs h; exact .inr ⟨v, bs, h, by simp⟩

/-- The class of a dispatched frame is never PFT_NONE or PFT_CORRUPTED, and its STATUS is OK (R156, R157). -/
theorem dispatchFrame_class (c : Config) (f : Bytes) :
    ((dispatchFrame c f).out.resClass = .query ∨ (dispatchFrame c f).out.resClass = .reply ∨
      (dispatchFrame c f).out.resClass = .unknown) ∧ (dispatchFrame c f).out.status = .ok ∧
      (dispatchFrame c f).out.cause ≠ .header := by
  obtain ⟨-, h⟩ | ⟨dir, op, -, -, ⟨-, h⟩ | ⟨desc, -, ⟨-, h⟩ | ⟨k, -, h⟩⟩⟩ := dispatchFrame_cases c f
  · simp [h]
  · simp [h]
  · cases dir <;> simp [h, classOfDir]
  · obtain ⟨cause, -, h'⟩ | ⟨v, bs, -, h'⟩ := dispatchDecode_cases c desc dir k f
    · cases dir <;> cases cause <;> simp [h, h', classOfDir, causeOf]
    · cases dir <;> simp [h, h', classOfDir]

/-- A PROCESS step on a whole CRC-valid frame returns the dispatch's record, grabs, consumes or keeps the frame, and
writes the status field the dispatch names, if any (R146 to R155). -/
theorem processStep_processesFrame {nc : Bool} {s : State} {b : Bytes} (w : WholeFrame s b) (hm : CrcMatches s.cfg b) :
    ProcessesFrame nc s b (dispatchFrame s.cfg (b.take (frameLen b))).out (processStep nc b s) ∧
    (processStep nc b s).status = (s.project (dispatchFrame s.cfg (b.take (frameLen b))).write).status := by
  obtain ⟨h, hh, hc, hl⟩ := w
  have e := processStep_frame (nc := nc) hh hc hl hm
  set d := dispatchFrame s.cfg (b.take (frameLen b)) with hd
  refine ⟨⟨exec_processCmd_of_buf nc h, ?_, ?_, ?_⟩, ?_⟩
  · rintro rfl
    rw [e]
    refine ⟨?_, by simp [State.removeFront], by simp [State.removeFront]⟩
    simpa using State.buf_removeFront (frameLen b) (s := (s.grab (frameLen b) b).project d.write) (by simpa using h)
  · rintro rfl
    rw [e]; simp
  · rw [e]
    cases nc <;> unfold State.result finishFrame State.project State.removeFront <;> rcases d.write with _ | ⟨f, e⟩ <;> simp
  · rw [e]
    unfold State.project; rcases d.write with _ | ⟨f, e⟩ <;> simp

/-! ### Lookup -/

/-- A descriptor that the lookup finds is in the table and has the id (R99). -/
theorem findIn_some {t : List Descriptor} {id : Bytes} {desc : Descriptor} (h : findIn t id = some desc) :
    desc ∈ t ∧ desc.regId = id := by
  induction t with
  | nil => simp [findIn] at h
  | cons d t ih =>
    unfold findIn at h
    split at h
    · rename_i hd; cases h; exact ⟨List.mem_cons_self, hd⟩
    · exact ⟨List.mem_cons_of_mem _ (ih h).1, (ih h).2⟩

/-- The lookup finds none exactly where no descriptor has the id (R99). -/
theorem findIn_none {t : List Descriptor} {id : Bytes} :
    findIn t id = none ↔ ∀ desc ∈ t, desc.regId ≠ id := by
  induction t with
  | nil => simp [findIn]
  | cons d t ih =>
    unfold findIn
    split
    · rename_i hd; simp [hd]
    · rename_i hd; simp [hd, ih]

end Sys2Proof.Machine
end

