-- ==== Sys2Proof/Laws/Submit.lean ====
section
/-! SUPPORT. What SUBMIT can do, said once (spec/45_command_path.md R240 to R244). -/

namespace Sys2Proof.Machine

theorem exec_submitCmd (op : RegOp) (arg : Bytes) (v : Value) (s : State) :
    exec (submitCmd op arg v) s = .next (submit op arg v s) := by
  cases op <;> rfl

/-- The request checks pass exactly so (R241 steps 2 to 7). -/
theorem submitCheck_plan {c : Config} {op : RegOp} {arg : Bytes} {v : Value} {p : SubmitPlan} :
    submitCheck c op arg v = .plan p ↔
      9 ≤ arg.length ∧ ∃ desc, findRegister c (arg.take 9) = some desc ∧ behaviour desc .query op = some p.kind ∧
        (arg.drop 9 = [] ∨ p.kind = .digits) ∧
        encodeKernel c p.kind desc.dparam v (arg.drop 9) = .ok p.payload ∧
        (op = .write → inDescriptorRange desc.range p.kind v = true) := by
  obtain ⟨k, pl⟩ := p
  unfold submitCheck submitRid submitTail
  by_cases hl : arg.length < 9
  · simp [hl]
  rw [if_neg hl]
  cases hf : findRegister c (arg.take 9) with
  | none => simp
  | some desc =>
    cases hb : behaviour desc .query op with
    | none => simp [hb]
    | some k' =>
      simp only [hb, encodeStep]
      by_cases ht : arg.drop 9 ≠ [] ∧ k' ≠ .digits
      · rw [if_pos ht]
        simp only [reduceCtorEq, Option.some.injEq, false_iff, not_and, not_exists]
        rintro - _ rfl h1 h2
        rw [hb] at h1; cases h1
        exact absurd h2 (by tauto)
      · rw [if_neg ht]
        have ht' : arg.drop 9 = [] ∨ k' = .digits := by tauto
        cases he : encodeKernel c k' desc.dparam v (arg.drop 9) with
        | fault cause =>
          simp only [reduceCtorEq, Option.some.injEq, false_iff, not_and, not_exists]
          rintro - _ rfl h1 - h3
          rw [hb] at h1; cases h1
          rw [he] at h3; cases h3
        | ok payload =>
          constructor
          · intro h
            cases op with
            | read =>
              simp only [rangeStep, SubmitCheck.plan.injEq, SubmitPlan.mk.injEq] at h
              obtain ⟨rfl, rfl⟩ := h
              exact ⟨by omega, desc, rfl, hb, ht', he, by simp⟩
            | write =>
              simp only [rangeStep] at h
              split at h
              · rename_i hr
                simp only [SubmitCheck.plan.injEq, SubmitPlan.mk.injEq] at h
                obtain ⟨rfl, rfl⟩ := h
                exact ⟨by omega, desc, rfl, hb, ht', he, fun _ => hr⟩
              · cases h
          · rintro ⟨-, desc', hd, h1, -, h3, h4⟩
            cases hd
            rw [hb] at h1; cases h1
            rw [he] at h3; cases h3
            cases op with
            | read => rfl
            | write => simp only [rangeStep, h4 rfl, if_true]

/-- Everything SUBMIT can do: end with a status and change nothing, or emit its one frame (R241, R242). -/
theorem submit_cases (op : RegOp) (arg : Bytes) (v : Value) (s : State) :
    (∃ r, submitCheck s.cfg op arg v = .refuse r ∧ submit op arg v s = s.raise r.code r.cause) ∨
    (∃ p, submitCheck s.cfg op arg v = .plan p ∧ (s.hpAddrValid && s.ctrlAddrValid) = false ∧
      submit op arg v s = s.raise .addrUnset .none) ∨
    (∃ p, submitCheck s.cfg op arg v = .plan p ∧ (s.hpAddrValid && s.ctrlAddrValid) = true ∧
      submit op arg v s
        = (s.emitTx (outgoingFrame s op (arg.take 9) p.payload)).result
          (submitResult s.cfg p.kind (outgoingFrame s op (arg.take 9) p.payload))) := by
  unfold submit
  cases hc : submitCheck s.cfg op arg v with
  | refuse r => exact .inl ⟨r, rfl, rfl⟩
  | plan p =>
    cases hv : s.hpAddrValid && s.ctrlAddrValid with
    | false => exact .inr (.inl ⟨p, rfl, rfl, by simp⟩)
    | true => exact .inr (.inr ⟨p, rfl, rfl, by simp [submitRid]⟩)

/-- No check of SUBMIT answers the status OK. -/
theorem submitCheck_refuse_ne_ok {c : Config} {op : RegOp} {arg : Bytes} {v : Value} {r : SubmitRefusal}
    (h : submitCheck c op arg v = .refuse r) : r.code ≠ .ok := by
  unfold submitCheck encodeStep rangeStep at h
  repeat' split at h
  all_goals first
    | (cases h; done)
    | (cases h; simp)

/-- The length of an emitted frame (R82, R242). -/
theorem outgoingBody_length (s : State) (op : RegOp) {rid : Bytes} (payload : Bytes) (h : rid.length = 9) :
    (outgoingBody s op rid payload).length = 20 + payload.length := by
  simp [outgoingBody, BusAddr.toBytes, h]; omega

end Sys2Proof.Machine
end

