-- ==== Sys2Proof/Laws/Exec.lean ====
section
/-! SUPPORT. Everything one command can do to the state, said once: the provers cite `exec_next` instead of unfolding
the forty meanings. -/

namespace Sys2Proof.Machine

/-- A DECODE command ends with one record and changes nothing else (R182). -/
theorem finishDecode_result (k : Kind) (o : DecodeOut) (s : State) : ∃ r, finishDecode k o s = s.result r := by
  cases o with
  | ok v bs => exact ⟨{ value := v, bytes := bs, kind := kindCode k, valid := true }, rfl⟩
  | fault cause => exact ⟨{ status := .decodeFault, cause := causeOf cause }, rfl⟩

/-- An ENCODE command ends with one record and changes nothing else (R211). -/
theorem finishEncode_result (k : Kind) (o : EncodeOut) (s : State) : ∃ r, finishEncode k o s = s.result r := by
  cases o with
  | ok payload => exact ⟨{ bytes := payload, kind := kindCode k, valid := true }, rfl⟩
  | fault cause => exact ⟨{ status := .encodeFault, cause := causeOf cause }, rfl⟩

/-- A refusal is a record that carries a status and a cause only (R73, R293). -/
theorem raise_eq_result (s : State) (code : StatusCode) (cause : Cause) :
    s.raise code cause = s.result { status := code, cause := cause } := rfl

/-- What a command does when it answers a next state (R38): return a record and nothing else, or the one effect of the
command that owns the element. -/
inductive Performs : Instr → State → State → Prop where
  | returnsOnly {i s} (r : Result) : Performs i s (s.result r)
  | append {s} (arg : Bytes) : Performs (.append arg) s
      ((s.appendBytes (arg.take (min arg.length (s.cfg.cap - s.fill)))).result
        { value := BitVec.ofNat 32 (min arg.length (s.cfg.cap - s.fill)), valid := true })
  | consume {s} (n : Byte) (h : n.toNat ≤ s.fill) : Performs (.consume n) s
      ((s.removeFront n.toNat).result { value := BitVec.ofNat 32 (s.fill - n.toNat), valid := true })
  | resetBuf {s} : Performs .resetBuf s
      (({ s with bufStore := [], fill := 0, expLen := none } : State).result {})
  | process {s} (nc : Bool) (b : Bytes) (h : s.buf = some b) : Performs (processCmd nc) s (processStep nc b s)
  | submit {s} (op : RegOp) (arg : Bytes) (v : Value) (p : SubmitPlan)
      (hp : submitCheck s.cfg op arg v = .plan p) (ha : (s.hpAddrValid && s.ctrlAddrValid) = true) :
      Performs (submitCmd op arg v) s
        ((s.emitTx (outgoingFrame s op (arg.take 9) p.payload)).result
          (submitResult s.cfg p.kind (outgoingFrame s op (arg.take 9) p.payload)))
  | setAddrHp {s} (arg : Bytes) (a : BusAddr) (h : busAddrOf arg = some a) : Performs (.setAddrHp arg) s
      (({ s with hpAddr := a, hpAddrValid := true } : State).result {})
  | setAddrCtrl {s} (arg : Bytes) (a : BusAddr) (h : busAddrOf arg = some a) : Performs (.setAddrCtrl arg) s
      (({ s with ctrlAddr := a, ctrlAddrValid := true } : State).result {})
  | setGrabOff {s} : Performs .setGrabOff s
      (({ s with grabEn := false, grabStore := [], grabLen := 0 } : State).result {})
  | setGrabOn {s} (v : Value) (h : v.toNat ≤ s.cfg.gcapMax) : Performs (.setGrabOn v) s
      (({ s with grabEn := true, grabCap := v.toNat, grabStore := [], grabLen := 0 } : State).result {})

theorem Performs.of_result {i : Instr} {s t : State} (h : ∃ r, t = s.result r) : Performs i s t := by
  obtain ⟨r, rfl⟩ := h; exact .returnsOnly r

/-- Everything a command can do when it answers a next state. -/
theorem exec_next {i : Instr} {s t : State} (h : exec i s = .next t) : Performs i s t := by
  have dec : ∀ {i k o}, (Host.Outcome.next (finishDecode k o s) : Host.Outcome State Fault Refusal) = .next t → Performs i s t := by
    intro i k o h; cases h; exact .of_result (finishDecode_result k o s)
  have enc : ∀ {i k o}, (Host.Outcome.next (finishEncode k o s) : Host.Outcome State Fault Refusal) = .next t → Performs i s t := by
    intro i k o h; cases h; exact .of_result (finishEncode_result k o s)
  have sub : ∀ op arg v, exec (submitCmd op arg v) s = .next t → Performs (submitCmd op arg v) s t := by
    intro op arg v h
    rw [exec_submitCmd] at h
    cases h
    obtain ⟨r, -, h⟩ | ⟨p, -, -, h⟩ | ⟨p, hp, hv, h⟩ := submit_cases op arg v s
    · rw [h]; exact .returnsOnly _
    · rw [h]; exact .returnsOnly _
    · rw [h]; exact .submit op arg v p hp hv
  cases i with
  | nop => cases h; exact .returnsOnly _
  | append arg => cases h; exact .append arg
  | process => obtain ⟨b, hb, rfl⟩ := exec_processCmd_next (nc := false) h; exact .process false b hb
  | processNc => obtain ⟨b, hb, rfl⟩ := exec_processCmd_next (nc := true) h; exact .process true b hb
  | consume n =>
    simp only [exec, execConsume] at h
    split at h
    · cases h; exact .returnsOnly _
    · rename_i hn; cases h; exact .consume n (Nat.le_of_not_lt hn)
  | resetBuf => cases h; exact .resetBuf
  | crc8 arg v =>
    simp only [exec, execCrc8] at h
    split at h <;> cases h <;> exact .returnsOnly _
  | decodeTemp16 _ => exact dec h
  | decodeTemp8 _ => exact dec h
  | decodeFreq16 _ => exact dec h
  | decodePercent _ => exact dec h
  | decodeTimeHm _ => exact dec h
  | decodeDateDmy _ => exact dec h
  | decodeFlag _ => exact dec h
  | decodeEnum _ _ => exact dec h
  | decodeDigits _ _ => exact dec h
  | decodeAlarmClear _ => exact dec h
  | decodeGeneric16 _ => exact dec h
  | decodeEmpty _ => exact dec h
  | encodeTemp16 _ => exact enc h
  | encodeTemp8 _ => exact enc h
  | encodeFreq16 _ => exact enc h
  | encodePercent _ => exact enc h
  | encodeTimeHm _ => exact enc h
  | encodeDateDmy _ => exact enc h
  | encodeFlag _ => exact enc h
  | encodeEnum _ _ => exact enc h
  | encodeDigits _ _ => exact enc h
  | encodeAlarmClear => exact enc h
  | encodeGeneric16 _ => exact enc h
  | encodeEmpty => exact enc h
  | submitRead arg v => exact sub .read arg v h
  | submitWrite arg v => exact sub .write arg v h
  | setAddrHp arg =>
    simp only [exec, execSetAddrHp] at h
    split at h
    · cases h; exact .returnsOnly _
    · rename_i a ha; cases h; exact .setAddrHp arg a ha
  | setAddrCtrl arg =>
    simp only [exec, execSetAddrCtrl] at h
    split at h
    · cases h; exact .returnsOnly _
    · rename_i a ha; cases h; exact .setAddrCtrl arg a ha
  | setGrabOff => cases h; exact .setGrabOff
  | setGrabOn v =>
    simp only [exec, execSetGrabOn] at h
    split at h
    · cases h; exact .returnsOnly _
    · rename_i hv; cases h; exact .setGrabOn v (Nat.le_of_not_lt hv)
  | readStatus n =>
    simp only [exec, execReadStatus] at h
    split at h <;> cases h <;> exact .returnsOnly _
  | readGrab =>
    simp only [exec, execReadGrab] at h
    split at h
    · cases h; exact .returnsOnly _
    · cases h
  | readState => cases h; exact .returnsOnly _

/-- Only PROCESS and READ_GRAB can stop, and only on a byte that has no value (R24, R33; log entry 4). -/
theorem exec_stops {i : Instr} {s : State} (h : ∀ t, exec i s ≠ .next t) :
    exec i s = .fault .unspecifiedByte ∧
      ((∃ nc, i = processCmd nc ∧ s.buf = none) ∨ (i = .readGrab ∧ s.grabBytes = none)) := by
  have proc : ∀ nc, (∀ t, exec (processCmd nc) s ≠ .next t) →
      exec (processCmd nc) s = .fault .unspecifiedByte ∧ s.buf = none := by
    intro nc h
    rw [exec_processCmd, processIn] at h ⊢
    cases hb : s.buf with
    | some b => rw [hb] at h; exact absurd rfl (h _)
    | none => exact ⟨rfl, rfl⟩
  cases i with
  | process => exact ⟨(proc false h).1, .inl ⟨false, rfl, (proc false h).2⟩⟩
  | processNc => exact ⟨(proc true h).1, .inl ⟨true, rfl, (proc true h).2⟩⟩
  | readGrab =>
    cases hg : s.grabBytes with
    | some bs => exact absurd (by simp only [exec, execReadGrab, hg]; rfl) (h _)
    | none => exact ⟨by simp only [exec, execReadGrab, hg], .inr ⟨rfl, rfl⟩⟩
  | consume n =>
    simp only [exec, execConsume] at h; split at h <;> exact absurd rfl (h _)
  | crc8 arg v =>
    simp only [exec, execCrc8] at h; split at h <;> exact absurd rfl (h _)
  | setAddrHp arg =>
    simp only [exec, execSetAddrHp] at h; split at h <;> exact absurd rfl (h _)
  | setAddrCtrl arg =>
    simp only [exec, execSetAddrCtrl] at h; split at h <;> exact absurd rfl (h _)
  | setGrabOn v =>
    simp only [exec, execSetGrabOn] at h; split at h <;> exact absurd rfl (h _)
  | readStatus n =>
    simp only [exec, execReadStatus] at h; split at h <;> exact absurd rfl (h _)
  | _ => exact absurd rfl (h _)

end Sys2Proof.Machine
end

