-- ==== Sys2Proof/Laws/PerInstr.lean ====
section
/-! SUPPORT. The family EncodeRow: for every instruction, the word the encoder writes matches the row of the opcode
table that has the instruction's mnemonic (spec/30_encoding.md R72, R74, R78). One lemma per constructor. -/

namespace Sys2Proof.Laws

/-- The word of the instruction matches its own row of the opcode table. -/
def EncodeRow.Statement (i : Instr) : Prop :=
  ∃ row ∈ opcodeTable, row.mnemonic = i.mnemonic ∧ row.matchesWord i.word = true

/-- A word whose low byte the mask leaves open matches a row that fixes the high byte. -/
theorem matches_openImm (opc sel : BitVec 4) (imm : Byte) :
    cmdOf opc sel imm &&& 0xFF00 = cmdOf opc sel 0 := by
  unfold cmdOf
  ext i hi
  rw [← BitVec.getLsbD_eq_getElem, ← BitVec.getLsbD_eq_getElem]
  simp only [BitVec.getLsbD_and, BitVec.getLsbD_append]
  by_cases h8 : i < 8
  · have : BitVec.getLsbD (0xFF00 : CmdWord) i = false := by
      have : ∀ j, j < 8 → BitVec.getLsbD (0xFF00 : CmdWord) j = false := by decide
      exact this i h8
    rw [this]; simp [h8]
  · have : BitVec.getLsbD (0xFF00 : CmdWord) i = true := by
      have : ∀ j, j < 16 → ¬ j < 8 → BitVec.getLsbD (0xFF00 : CmdWord) j = true := by decide
      exact this i hi h8
    rw [this]; simp [h8]

theorem EncodeRow.nop : EncodeRow.Statement .nop :=
  ⟨⟨"NOP", 0x0000, 0xFFFF⟩, by decide, rfl, by simp only [OpcodeRow.matchesWord, Instr.word]; decide⟩
theorem EncodeRow.append (arg : Bytes) : EncodeRow.Statement (.append arg) :=
  ⟨⟨"APPEND", 0x1000, 0xFFFF⟩, by decide, rfl, by simp only [OpcodeRow.matchesWord, Instr.word]; decide⟩
theorem EncodeRow.process : EncodeRow.Statement .process :=
  ⟨⟨"PROCESS", 0x2000, 0xFFFF⟩, by decide, rfl, by simp only [OpcodeRow.matchesWord, Instr.word]; decide⟩
theorem EncodeRow.processNc : EncodeRow.Statement .processNc :=
  ⟨⟨"PROCESS.NC", 0x2001, 0xFFFF⟩, by decide, rfl, by simp only [OpcodeRow.matchesWord, Instr.word]; decide⟩
theorem EncodeRow.consume (n : Byte) : EncodeRow.Statement (.consume n) :=
  ⟨⟨"CONSUME", 0x3000, 0xFF00⟩, by decide, rfl,
    beq_iff_eq.mpr ((matches_openImm 0x3 0x0 n).trans (by decide))⟩
theorem EncodeRow.resetBuf : EncodeRow.Statement .resetBuf :=
  ⟨⟨"RESET_BUF", 0x4000, 0xFFFF⟩, by decide, rfl, by simp only [OpcodeRow.matchesWord, Instr.word]; decide⟩
theorem EncodeRow.crc8 (arg : Bytes) (value : Value) : EncodeRow.Statement (.crc8 arg value) :=
  ⟨⟨"CRC8", 0x5000, 0xFFFF⟩, by decide, rfl, by simp only [OpcodeRow.matchesWord, Instr.word]; decide⟩
theorem EncodeRow.decodeTemp16 (arg : Bytes) : EncodeRow.Statement (.decodeTemp16 arg) :=
  ⟨⟨"DECODE.TEMP16", 0x6000, 0xFFFF⟩, by decide, rfl, by simp only [OpcodeRow.matchesWord, Instr.word]; decide⟩
theorem EncodeRow.decodeTemp8 (arg : Bytes) : EncodeRow.Statement (.decodeTemp8 arg) :=
  ⟨⟨"DECODE.TEMP8", 0x6100, 0xFFFF⟩, by decide, rfl, by simp only [OpcodeRow.matchesWord, Instr.word]; decide⟩
theorem EncodeRow.decodeFreq16 (arg : Bytes) : EncodeRow.Statement (.decodeFreq16 arg) :=
  ⟨⟨"DECODE.FREQ16", 0x6200, 0xFFFF⟩, by decide, rfl, by simp only [OpcodeRow.matchesWord, Instr.word]; decide⟩
theorem EncodeRow.decodePercent (arg : Bytes) : EncodeRow.Statement (.decodePercent arg) :=
  ⟨⟨"DECODE.PERCENT", 0x6300, 0xFFFF⟩, by decide, rfl, by simp only [OpcodeRow.matchesWord, Instr.word]; decide⟩
theorem EncodeRow.decodeTimeHm (arg : Bytes) : EncodeRow.Statement (.decodeTimeHm arg) :=
  ⟨⟨"DECODE.TIME_HM", 0x6400, 0xFFFF⟩, by decide, rfl, by simp only [OpcodeRow.matchesWord, Instr.word]; decide⟩
theorem EncodeRow.decodeDateDmy (arg : Bytes) : EncodeRow.Statement (.decodeDateDmy arg) :=
  ⟨⟨"DECODE.DATE_DMY", 0x6500, 0xFFFF⟩, by decide, rfl, by simp only [OpcodeRow.matchesWord, Instr.word]; decide⟩
theorem EncodeRow.decodeFlag (arg : Bytes) : EncodeRow.Statement (.decodeFlag arg) :=
  ⟨⟨"DECODE.FLAG", 0x6600, 0xFFFF⟩, by decide, rfl, by simp only [OpcodeRow.matchesWord, Instr.word]; decide⟩
theorem EncodeRow.decodeEnum (d : Byte) (arg : Bytes) : EncodeRow.Statement (.decodeEnum d arg) :=
  ⟨⟨"DECODE.ENUM", 0x6700, 0xFF00⟩, by decide, rfl,
    beq_iff_eq.mpr ((matches_openImm 0x6 0x7 d).trans (by decide))⟩
theorem EncodeRow.decodeDigits (d : Byte) (arg : Bytes) : EncodeRow.Statement (.decodeDigits d arg) :=
  ⟨⟨"DECODE.DIGITS", 0x6800, 0xFF00⟩, by decide, rfl,
    beq_iff_eq.mpr ((matches_openImm 0x6 0x8 d).trans (by decide))⟩
theorem EncodeRow.decodeAlarmClear (arg : Bytes) : EncodeRow.Statement (.decodeAlarmClear arg) :=
  ⟨⟨"DECODE.ALARM_CLEAR", 0x6900, 0xFFFF⟩, by decide, rfl, by simp only [OpcodeRow.matchesWord, Instr.word]; decide⟩
theorem EncodeRow.decodeGeneric16 (arg : Bytes) : EncodeRow.Statement (.decodeGeneric16 arg) :=
  ⟨⟨"DECODE.GENERIC16", 0x6A00, 0xFFFF⟩, by decide, rfl, by simp only [OpcodeRow.matchesWord, Instr.word]; decide⟩
theorem EncodeRow.decodeEmpty (arg : Bytes) : EncodeRow.Statement (.decodeEmpty arg) :=
  ⟨⟨"DECODE.EMPTY", 0x6B00, 0xFFFF⟩, by decide, rfl, by simp only [OpcodeRow.matchesWord, Instr.word]; decide⟩
theorem EncodeRow.encodeTemp16 (value : Value) : EncodeRow.Statement (.encodeTemp16 value) :=
  ⟨⟨"ENCODE.TEMP16", 0x7000, 0xFFFF⟩, by decide, rfl, by simp only [OpcodeRow.matchesWord, Instr.word]; decide⟩
theorem EncodeRow.encodeTemp8 (value : Value) : EncodeRow.Statement (.encodeTemp8 value) :=
  ⟨⟨"ENCODE.TEMP8", 0x7100, 0xFFFF⟩, by decide, rfl, by simp only [OpcodeRow.matchesWord, Instr.word]; decide⟩
theorem EncodeRow.encodeFreq16 (value : Value) : EncodeRow.Statement (.encodeFreq16 value) :=
  ⟨⟨"ENCODE.FREQ16", 0x7200, 0xFFFF⟩, by decide, rfl, by simp only [OpcodeRow.matchesWord, Instr.word]; decide⟩
theorem EncodeRow.encodePercent (value : Value) : EncodeRow.Statement (.encodePercent value) :=
  ⟨⟨"ENCODE.PERCENT", 0x7300, 0xFFFF⟩, by decide, rfl, by simp only [OpcodeRow.matchesWord, Instr.word]; decide⟩
theorem EncodeRow.encodeTimeHm (value : Value) : EncodeRow.Statement (.encodeTimeHm value) :=
  ⟨⟨"ENCODE.TIME_HM", 0x7400, 0xFFFF⟩, by decide, rfl, by simp only [OpcodeRow.matchesWord, Instr.word]; decide⟩
theorem EncodeRow.encodeDateDmy (value : Value) : EncodeRow.Statement (.encodeDateDmy value) :=
  ⟨⟨"ENCODE.DATE_DMY", 0x7500, 0xFFFF⟩, by decide, rfl, by simp only [OpcodeRow.matchesWord, Instr.word]; decide⟩
theorem EncodeRow.encodeFlag (value : Value) : EncodeRow.Statement (.encodeFlag value) :=
  ⟨⟨"ENCODE.FLAG", 0x7600, 0xFFFF⟩, by decide, rfl, by simp only [OpcodeRow.matchesWord, Instr.word]; decide⟩
theorem EncodeRow.encodeEnum (d : Byte) (value : Value) : EncodeRow.Statement (.encodeEnum d value) :=
  ⟨⟨"ENCODE.ENUM", 0x7700, 0xFF00⟩, by decide, rfl,
    beq_iff_eq.mpr ((matches_openImm 0x7 0x7 d).trans (by decide))⟩
theorem EncodeRow.encodeDigits (d : Byte) (arg : Bytes) : EncodeRow.Statement (.encodeDigits d arg) :=
  ⟨⟨"ENCODE.DIGITS", 0x7800, 0xFF00⟩, by decide, rfl,
    beq_iff_eq.mpr ((matches_openImm 0x7 0x8 d).trans (by decide))⟩
theorem EncodeRow.encodeAlarmClear : EncodeRow.Statement .encodeAlarmClear :=
  ⟨⟨"ENCODE.ALARM_CLEAR", 0x7900, 0xFFFF⟩, by decide, rfl, by simp only [OpcodeRow.matchesWord, Instr.word]; decide⟩
theorem EncodeRow.encodeGeneric16 (value : Value) : EncodeRow.Statement (.encodeGeneric16 value) :=
  ⟨⟨"ENCODE.GENERIC16", 0x7A00, 0xFFFF⟩, by decide, rfl, by simp only [OpcodeRow.matchesWord, Instr.word]; decide⟩
theorem EncodeRow.encodeEmpty : EncodeRow.Statement .encodeEmpty :=
  ⟨⟨"ENCODE.EMPTY", 0x7B00, 0xFFFF⟩, by decide, rfl, by simp only [OpcodeRow.matchesWord, Instr.word]; decide⟩
theorem EncodeRow.submitRead (arg : Bytes) (value : Value) : EncodeRow.Statement (.submitRead arg value) :=
  ⟨⟨"SUBMIT.READ", 0x8000, 0xFFFF⟩, by decide, rfl, by simp only [OpcodeRow.matchesWord, Instr.word]; decide⟩
theorem EncodeRow.submitWrite (arg : Bytes) (value : Value) : EncodeRow.Statement (.submitWrite arg value) :=
  ⟨⟨"SUBMIT.WRITE", 0x8100, 0xFFFF⟩, by decide, rfl, by simp only [OpcodeRow.matchesWord, Instr.word]; decide⟩
theorem EncodeRow.setAddrHp (arg : Bytes) : EncodeRow.Statement (.setAddrHp arg) :=
  ⟨⟨"SET_ADDR.HP", 0x9000, 0xFFFF⟩, by decide, rfl, by simp only [OpcodeRow.matchesWord, Instr.word]; decide⟩
theorem EncodeRow.setAddrCtrl (arg : Bytes) : EncodeRow.Statement (.setAddrCtrl arg) :=
  ⟨⟨"SET_ADDR.CTRL", 0x9100, 0xFFFF⟩, by decide, rfl, by simp only [OpcodeRow.matchesWord, Instr.word]; decide⟩
theorem EncodeRow.setGrabOff : EncodeRow.Statement .setGrabOff :=
  ⟨⟨"SET_GRAB.OFF", 0xA000, 0xFFFF⟩, by decide, rfl, by simp only [OpcodeRow.matchesWord, Instr.word]; decide⟩
theorem EncodeRow.setGrabOn (value : Value) : EncodeRow.Statement (.setGrabOn value) :=
  ⟨⟨"SET_GRAB.ON", 0xA100, 0xFFFF⟩, by decide, rfl, by simp only [OpcodeRow.matchesWord, Instr.word]; decide⟩
theorem EncodeRow.readStatus (i : Byte) : EncodeRow.Statement (.readStatus i) :=
  ⟨⟨"READ_STATUS", 0xB000, 0xFF00⟩, by decide, rfl,
    beq_iff_eq.mpr ((matches_openImm 0xb 0x0 i).trans (by decide))⟩
theorem EncodeRow.readGrab : EncodeRow.Statement .readGrab :=
  ⟨⟨"READ_GRAB", 0xC000, 0xFFFF⟩, by decide, rfl, by simp only [OpcodeRow.matchesWord, Instr.word]; decide⟩
theorem EncodeRow.readState : EncodeRow.Statement .readState :=
  ⟨⟨"READ_STATE", 0xD000, 0xFFFF⟩, by decide, rfl, by simp only [OpcodeRow.matchesWord, Instr.word]; decide⟩

end Sys2Proof.Laws
end

