-- ==== Sys2Proof/Laws/Terms.lean ====
section
/-! SUPPORT. The terms that Safety.lean spells from the spec, and the model's functions: the one bridge between them, so
that a proof turns a hypothesis about a frame, a register or a checksum into what the model computes. -/

namespace Sys2Proof.Machine

/-! ### Discriminators, registers and behaviours -/

/-- A direction byte that names a direction is read as it (R83). -/
theorem wireDir_of_namesDirection {c : Config} {b : Byte} {dir : WireDir} (h : NamesDirection c b dir) :
    wireDir c b = some dir := by
  obtain ⟨rfl, rfl⟩ | ⟨rfl, rfl, hne⟩ := h
  · simp [wireDir]
  · simp [wireDir, hne]

/-- An op byte that names an op is read as it (R84). -/
theorem wireOp_of_namesOp {c : Config} {b : Byte} {op : RegOp} (h : NamesOp c b op) : wireOp c b = some op := by
  obtain ⟨rfl, rfl⟩ | ⟨rfl, rfl, hne⟩ := h
  · simp [wireOp]
  · simp [wireOp, hne]

/-- The lookup answers the one descriptor with the id (R99). -/
theorem findRegister_of_theRegister {c : Config} {id : Bytes} {desc : Descriptor} (h : TheRegister c id desc) :
    findRegister c id = some desc := by
  obtain ⟨hm, hid, hone⟩ := h
  cases hf : findRegister c id with
  | none => exact absurd hid (findIn_none.mp hf desc hm)
  | some d => rw [hone d (findIn_some hf).1 (findIn_some hf).2]

/-- Behaviour selection answers the field of the pair (R97). -/
theorem behaviour_of_hasBehaviour {desc : Descriptor} {dir : WireDir} {op : RegOp} {k : Option Kind}
    (h : HasBehaviour desc dir op k) : behaviour desc dir op = k := by
  obtain ⟨rfl, rfl, h⟩ | ⟨rfl, rfl, h⟩ | ⟨rfl, rfl, h⟩ | ⟨rfl, rfl, h⟩ := h <;> exact h

/-- Every descriptor has the behaviour that the selection answers (R97). -/
theorem hasBehaviour_of_behaviour {desc : Descriptor} {dir : WireDir} {op : RegOp} {k : Option Kind}
    (h : behaviour desc dir op = k) : HasBehaviour desc dir op k := by
  subst h; cases dir <;> cases op <;> simp [HasBehaviour, behaviour]

/-! ### The checksum's shifts -/

/-- The byte reversal on numbers (R131). -/
theorem rev8_toNat (x : Byte) : (rev8 x).toNat = reversedByte x.toNat := by
  revert x; decide +kernel

/-- The shift of R130 on numbers. -/
theorem crcShift_toNat (poly c : Byte) : (crcShift poly c).toNat = shiftMsb poly.toNat c.toNat := by
  have h7 : c.getLsbD 7 = decide (c.toNat / 128 % 2 = 1) := by
    simp [BitVec.getLsbD, Nat.testBit_eq_decide_div_mod_eq]
  have hs : (c <<< 1).toNat = 2 * c.toNat % 256 := by
    rw [BitVec.toNat_shiftLeft, Nat.shiftLeft_eq, Nat.mul_comm]
  unfold crcShift shiftMsb
  rw [h7]
  by_cases hc : c.toNat / 128 % 2 = 1 <;> simp [hc, BitVec.toNat_xor, hs]

/-- The shift of R131 on numbers. -/
theorem crcShiftR_toNat (poly c : Byte) : (crcShiftR poly c).toNat = shiftLsb poly.toNat c.toNat := by
  have h0 : c.getLsbD 0 = decide (c.toNat % 2 = 1) := by
    simp [BitVec.getLsbD, Nat.testBit_eq_decide_div_mod_eq]
  have hs : (c >>> 1).toNat = c.toNat / 2 := by
    rw [BitVec.toNat_ushiftRight, Nat.shiftRight_eq_div_pow]
  unfold crcShiftR shiftLsb
  rw [h0]
  by_cases hc : c.toNat % 2 = 1 <;> simp [hc, BitVec.toNat_xor, hs, rev8_toNat]

end Sys2Proof.Machine
end

