-- ==== Sys2Proof/Machine/Assembly.lean ====
section
/-! DEFINITION. The assembler notation of spec/30_encoding.md R77 (log entry 10): one command per line, with the
pseudo-instructions SET_ADDRS and PEEK. It turns a line into the commands the host issues; the machine itself never
sees the text. -/

namespace Sys2Proof.Machine

/-! ### Tokens -/

/-- The tokens of a source line. -/
inductive Token where
  | word (chars : List Char)
  | comma
  | lbracket
  | rbracket
deriving DecidableEq, Repr

/-- The word collected so far, if there is one. -/
def flushWord (acc : List Char) (rest : List Token) : List Token :=
  match acc with
  | [] => rest
  | _ => .word acc.reverse :: rest

/-- Split a line into tokens; `acc` is the word collected so far, in reverse. -/
def tokensOf : List Char → List Char → List Token
  | acc, [] => flushWord acc []
  | acc, ch :: rest =>
    if ch = ' ' then flushWord acc (tokensOf [] rest)
    else if ch = ',' then flushWord acc (.comma :: tokensOf [] rest)
    else if ch = '[' then flushWord acc (.lbracket :: tokensOf [] rest)
    else if ch = ']' then flushWord acc (.rbracket :: tokensOf [] rest)
    else tokensOf (ch :: acc) rest

/-! ### Numbers -/

/-- The value of a hexadecimal digit. -/
def hexDigit (ch : Char) : Option Nat :=
  if '0' ≤ ch ∧ ch ≤ '9' then some (ch.toNat - '0'.toNat)
  else if 'A' ≤ ch ∧ ch ≤ 'F' then some (ch.toNat - 'A'.toNat + 10)
  else if 'a' ≤ ch ∧ ch ≤ 'f' then some (ch.toNat - 'a'.toNat + 10)
  else none

/-- A byte written `0xHH` or plain `HH` (R77). -/
def hexByte : List Char → Option Byte
  | ['0', 'x', h, l] => do some (BitVec.ofNat 8 (16 * (← hexDigit h) + (← hexDigit l)))
  | [h, l] => do some (BitVec.ofNat 8 (16 * (← hexDigit h) + (← hexDigit l)))
  | _ => none

/-- The value of a run of decimal digits after the number `n`. -/
def decimalFrom : Nat → List Char → Option Nat
  | n, [] => some n
  | n, ch :: rest =>
    if '0' ≤ ch ∧ ch ≤ '9' then decimalFrom (10 * n + (ch.toNat - '0'.toNat)) rest else none

/-- An unsigned decimal. -/
def decimal : List Char → Option Nat
  | [] => none
  | cs => decimalFrom 0 cs

/-- A signed or unsigned decimal (R77). -/
def signedDecimal : List Char → Option Int
  | '-' :: cs => (decimal cs).map fun n => -(n : Int)
  | cs => (decimal cs).map fun n => (n : Int)

/-! ### Operands -/

/-- An operand: a byte sequence, or a word (a decimal or a register's name). -/
inductive Operand where
  | bytes (bs : Bytes)
  | word (chars : List Char)
deriving DecidableEq, Repr

/-- The operands of a line after its mnemonic. `open?` holds the bytes of a bracket that is still open, in reverse.
Inside a bracket commas may separate the bytes; outside, they separate the operands. -/
def operandsOf : Option Bytes → List Token → Option (List Operand)
  | none, [] => some []
  | some _, [] => none
  | none, .comma :: rest => operandsOf none rest
  | some acc, .comma :: rest => operandsOf (some acc) rest
  | none, .lbracket :: rest => operandsOf (some []) rest
  | some _, .lbracket :: _ => none
  | none, .rbracket :: _ => none
  | some acc, .rbracket :: rest => (operandsOf none rest).map fun ops => .bytes acc.reverse :: ops
  | none, .word cs :: rest => (operandsOf none rest).map fun ops => .word cs :: ops
  | some acc, .word cs :: rest =>
    match hexByte cs with
    | some b => operandsOf (some (b :: acc)) rest
    | none => none

/-- A decimal operand that fits a byte: `n`, `i` or `d`. -/
def byteOperand (cs : List Char) : Option Byte :=
  match decimal cs with
  | some n => if n < 256 then some (BitVec.ofNat 8 n) else none
  | none => none

/-- A decimal operand on the VALUE channel, signed or unsigned (R77, R93). -/
def valueOperand (cs : List Char) : Option Value :=
  match signedDecimal cs with
  | some v => if -2147483648 ≤ v ∧ v < 4294967296 then some (BitVec.ofInt 32 v) else none
  | none => none

/-- CRC8's `start ‖ length` (R77, R133). -/
def rangeOperand (start length : List Char) : Option Value :=
  match decimal start, decimal length with
  | some a, some n => if a < 65536 ∧ n < 65536 then some (BitVec.ofNat 16 a ++ BitVec.ofNat 16 n) else none
  | _, _ => none

/-- The register id of a craft name in the table in use (R77). Where two descriptors share the name the first one is
meant (DESIGN CHOICE, log entry 10: no rule makes `craft_name` unique). -/
def regIdOfName : List Descriptor → List Char → Option Bytes
  | [], _ => none
  | desc :: rest, cs => if desc.craftName = String.ofList cs then some desc.regId else regIdOfName rest cs

/-- A register operand: 9 bytes, or a name from the table in use (R77). -/
def registerOperand (c : Config) : Operand → Option Bytes
  | .bytes bs => if bs.length = 9 then some bs else none
  | .word cs => regIdOfName c.regTable cs

/-! ### Lines -/

/-- A command with no operand. -/
def noOperand (i : Instr) : List Operand → Option (List Instr)
  | [] => some [i]
  | _ => none

/-- A command whose one operand is a byte sequence. -/
def bytesOperand (f : Bytes → Instr) : List Operand → Option (List Instr)
  | [.bytes bs] => some [f bs]
  | _ => none

/-- A command whose one operand is an 8-bit decimal. -/
def immOperand (f : Byte → Instr) : List Operand → Option (List Instr)
  | [.word cs] => (byteOperand cs).map fun n => [f n]
  | _ => none

/-- A command whose one operand is a value. -/
def typedOperand (f : Value → Instr) : List Operand → Option (List Instr)
  | [.word cs] => (valueOperand cs).map fun v => [f v]
  | _ => none

/-- A command with a kind parameter and a byte sequence. -/
def paramBytes (f : Byte → Bytes → Instr) : List Operand → Option (List Instr)
  | [.word d, .bytes bs] => (byteOperand d).map fun n => [f n bs]
  | _ => none

/-- `ENCODE.ENUM d, v`. -/
def paramValue (f : Byte → Value → Instr) : List Operand → Option (List Instr)
  | [.word d, .word v] =>
    match byteOperand d, valueOperand v with
    | some n, some x => some [f n x]
    | _, _ => none
  | _ => none

/-- `CRC8 [bytes], start, length`. -/
def crcOperands : List Operand → Option (List Instr)
  | [.bytes bs, .word start, .word length] => (rangeOperand start length).map fun v => [.crc8 bs v]
  | _ => none

/-- `SUBMIT.READ <regid>` (R77). R77 gives the line no value and no DIGITS bytes; the command it stands for carries VALUE
zero and the 9 id bytes alone (DESIGN CHOICE, log entry 10: a `beh_qr` other than EMPTY reads them, R243). -/
def readOperands (c : Config) : List Operand → Option (List Instr)
  | [reg] => (registerOperand c reg).map fun rid => [.submitRead rid 0]
  | _ => none

/-- `SUBMIT.WRITE <regid>, v` and `SUBMIT.WRITE <regid>, [bytes]`; a register whose write ignores VALUE may be
written with no value (R244; DESIGN CHOICE, log entry 10). -/
def writeOperands (c : Config) : List Operand → Option (List Instr)
  | [reg] => (registerOperand c reg).map fun rid => [.submitWrite rid 0]
  | [reg, .word v] =>
    match registerOperand c reg, valueOperand v with
    | some rid, some x => some [.submitWrite rid x]
    | _, _ => none
  | [reg, .bytes bs] => (registerOperand c reg).map fun rid => [.submitWrite (rid ++ bs) 0]
  | _ => none

/-- The pseudo-instruction `SET_ADDRS [hp], [ctrl]` (R77). -/
def addrsOperands : List Operand → Option (List Instr)
  | [.bytes hp, .bytes ctrl] => some [.setAddrHp hp, .setAddrCtrl ctrl]
  | _ => none

/-- The DECODE lines (R77). -/
def assembleDecode (m : String) (ops : List Operand) : Option (List Instr) :=
  match m with
  | "DECODE.TEMP16" => bytesOperand .decodeTemp16 ops
  | "DECODE.TEMP8" => bytesOperand .decodeTemp8 ops
  | "DECODE.FREQ16" => bytesOperand .decodeFreq16 ops
  | "DECODE.PERCENT" => bytesOperand .decodePercent ops
  | "DECODE.TIME_HM" => bytesOperand .decodeTimeHm ops
  | "DECODE.DATE_DMY" => bytesOperand .decodeDateDmy ops
  | "DECODE.FLAG" => bytesOperand .decodeFlag ops
  | "DECODE.ENUM" => paramBytes .decodeEnum ops
  | "DECODE.DIGITS" => paramBytes .decodeDigits ops
  | "DECODE.ALARM_CLEAR" => bytesOperand .decodeAlarmClear ops
  | "DECODE.GENERIC16" => bytesOperand .decodeGeneric16 ops
  | "DECODE.EMPTY" => bytesOperand .decodeEmpty ops
  | _ => none

/-- The ENCODE lines (R77). -/
def assembleEncode (m : String) (ops : List Operand) : Option (List Instr) :=
  match m with
  | "ENCODE.TEMP16" => typedOperand .encodeTemp16 ops
  | "ENCODE.TEMP8" => typedOperand .encodeTemp8 ops
  | "ENCODE.FREQ16" => typedOperand .encodeFreq16 ops
  | "ENCODE.PERCENT" => typedOperand .encodePercent ops
  | "ENCODE.TIME_HM" => typedOperand .encodeTimeHm ops
  | "ENCODE.DATE_DMY" => typedOperand .encodeDateDmy ops
  | "ENCODE.FLAG" => typedOperand .encodeFlag ops
  | "ENCODE.ENUM" => paramValue .encodeEnum ops
  | "ENCODE.DIGITS" => paramBytes .encodeDigits ops
  | "ENCODE.ALARM_CLEAR" => noOperand .encodeAlarmClear ops
  | "ENCODE.GENERIC16" => typedOperand .encodeGeneric16 ops
  | "ENCODE.EMPTY" => noOperand .encodeEmpty ops
  | _ => none

/-- The other lines and the pseudo-instructions (R77). -/
def assemblePlain (c : Config) (m : String) (ops : List Operand) : Option (List Instr) :=
  match m with
  | "NOP" => noOperand .nop ops
  | "APPEND" => bytesOperand .append ops
  | "PROCESS" => noOperand .process ops
  | "PROCESS.NC" => noOperand .processNc ops
  | "CONSUME" => immOperand .consume ops
  | "RESET_BUF" => noOperand .resetBuf ops
  | "CRC8" => crcOperands ops
  | "SUBMIT.READ" => readOperands c ops
  | "SUBMIT.WRITE" => writeOperands c ops
  | "SET_ADDR.HP" => bytesOperand .setAddrHp ops
  | "SET_ADDR.CTRL" => bytesOperand .setAddrCtrl ops
  | "SET_GRAB.OFF" => noOperand .setGrabOff ops
  | "SET_GRAB.ON" => typedOperand .setGrabOn ops
  | "READ_STATUS" => immOperand .readStatus ops
  | "READ_GRAB" => noOperand .readGrab ops
  | "READ_STATE" => noOperand .readState ops
  | "SET_ADDRS" => addrsOperands ops
  | "PEEK" => noOperand .processNc ops
  | _ => none

/-- The instructions of one source line, `none` where the line is not of R77's form. -/
def instructionsOfLine (c : Config) (line : String) : Option (List Instr) :=
  match tokensOf [] line.toList with
  | .word m :: rest =>
    match operandsOf none rest with
    | some ops =>
      (assemblePlain c (String.ofList m) ops).or
        ((assembleDecode (String.ofList m) ops).or (assembleEncode (String.ofList m) ops))
    | none => none
  | _ => none

/-- The commands a source line stands for (R77, R78). -/
def assembleLine (c : Config) (line : String) : Option (List Command) :=
  (instructionsOfLine c line).map (List.map encode)

end Sys2Proof.Machine
end

