-- ==== Sys2Proof/Tests/Slice0.lean ====
section
/-! SUPPORT. The model's own tests. The bytes and results of the instruction tests come from spec/95_test_vectors.md (the
vector is named at each); the command words are written out bit by bit from spec/30_encoding.md R71, R72 and R78. The
second half holds, for every obligation that has hypotheses, a named witness that meets them. -/

namespace Sys2Proof.Tests

-- Elaborate the many small theorems one after another: in parallel, each keeps a thread and its stack.
set_option Elab.async false

open Sys2Proof.Machine

/-! ### Helpers -/

/-- The next state of an outcome. -/
def nextOf : Host.Outcome State Fault Refusal → Option State
  | .next s => some s
  | _ => none

/-- A state with one command issued. -/
def issue (s : State) (w : CmdWord) (arg : Bytes) (value : Value) : State :=
  { s with inputs := [.command { cmd := w, arg := arg, value := value }] }

/-- The state after one command. -/
def after (s : State) (w : CmdWord) (arg : Bytes) (value : Value) : Option State := nextOf (step (issue s w arg value))

/-- The result record of one command. -/
def answer (s : State) (w : CmdWord) (arg : Bytes) (value : Value) : Option Result :=
  (after s w arg value).bind State.lastResult

/-- The reset state with `b` buffered. -/
def holding (b : Bytes) : State := { State.reset with bufStore := Memory.ofBytes 0 b, fill := b.length }

/-- The reset state with both addresses set as in 95_test_vectors.md section 0. -/
def addressed : State :=
  { State.reset with
    hpAddr := ⟨0x11, 0x22, 0x33, 0x44⟩, hpAddrValid := true,
    ctrlAddr := ⟨0x55, 0x66, 0x77, 0x88⟩, ctrlAddrValid := true }

/-- A received frame of the tests: destination CTRL, source HP. -/
def received (dir len op nn : Byte) (rest : Bytes) : Bytes :=
  [0x55, 0x66, 0x77, 0x88, 0x11, 0x22, 0x33, 0x44, dir, len, op] ++ refId nn ++ rest

/-- A query frame of the tests: destination HP, source CTRL. -/
def query (len op nn : Byte) (rest : Bytes) : Bytes :=
  [0x11, 0x22, 0x33, 0x44, 0x55, 0x66, 0x77, 0x88, 0x51, len, op] ++ refId nn ++ rest

/-- FA3. -/
def fa3 : Bytes := received 0x52 2 0x72 0x02 [0xC9, 0xFF, 0x57]
/-- F42. -/
def f42 : Bytes := received 0x52 1 0x72 0x04 [0x2A, 0xB1]
/-- F42c: F42 with bit 0 of its checksum byte flipped. -/
def f42c : Bytes := received 0x52 1 0x72 0x04 [0x2A, 0xB0]
/-- F150. -/
def f150 : Bytes := received 0x52 1 0x72 0x04 [0x96, 0x8C]
/-- QWT. -/
def qwt : Bytes := query 2 0x77 0x01 [0xD7, 0x00, 0x10]
/-- V-D8: TOUT with a 1-byte payload. -/
def shortTout : Bytes := received 0x52 1 0x72 0x02 [0xC9, 0x68]
/-- V-D9: a reply to a read of ACLR. -/
def readAclr : Bytes := received 0x52 0 0x72 0x0A [0x97]
/-- V-D10: register 0x7F. -/
def unknownReg : Bytes := received 0x52 2 0x72 0x7F [0x01, 0x02, 0x19]
/-- V-D11: direction byte 0x53. -/
def badDirection : Bytes := received 0x53 1 0x72 0x02 [0x00, 0x8D]
/-- V-D13: op byte 0x00. -/
def badOp : Bytes := received 0x52 1 0x00 0x02 [0x00, 0xEC]
/-- V-D14: someone's query, write DST 1. -/
def otherQuery : Bytes := query 1 0x77 0x06 [0x01, 0x13]
/-- V-D15: the reply to a write of TSET. -/
def writeTset : Bytes := received 0x52 2 0x77 0x01 [0xD7, 0x00, 0xB6]
/-- V-D4: a header with P = 44, L = 65 > CAP. -/
def badHeader : Bytes := List.replicate 9 0x00 ++ [0x2C] ++ List.replicate 10 0x00

/-! ### Well-formedness: the check refuses an ill-formed term -/

/-- An ARG of zeros. -/
def zeros (n : Nat) : Bytes := List.replicate n 0

theorem zeros_length (n : Nat) : (zeros n).length = n := List.length_replicate

theorem test_longest_arg_is_wellFormed : (Instr.append (zeros 65535)).WellFormed :=
  Nat.le_of_eq (zeros_length 65535)
theorem test_longer_arg_is_refused : ¬(Instr.append (zeros 65536)).WellFormed := by
  show ¬((zeros 65536).length ≤ maxArgLen)
  rw [zeros_length]; decide
theorem test_longer_arg_is_no_command (w : CmdWord) (v : Value) :
    decode { cmd := w, arg := zeros 65536, value := v } = .rejected .argTooLong := by
  unfold decode
  rw [zeros_length]; rfl

/-- A register of the tests: `beh_qw` and its neighbours free. -/
def someDesc : Descriptor :=
  { regId := refId 0x20, craftName := "X", displayName := "x", behQr := none, behQw := none, behRr := none, behRw := none,
    dparam := 0, range := none, statusField := none }
/-- The reference configuration with a register table of the tests. -/
def withTable (t : List Descriptor) : Config := { Config.reference with regTable := t }

theorem test_reference_is_legal : configOk Config.reference = true := by decide +kernel
theorem test_wf_cap_refuses : wfCap { Config.reference with cap := 20 } = false := by decide
theorem test_wf_directions_refuses : wfDiscriminators { Config.reference with dirReply := 0x51 } = false := by decide
theorem test_wf_freqDiv_refuses : wfScales { Config.reference with freqDiv := 0 } = false := by decide
theorem test_wf_sizes_refuses : wfSizes { Config.reference with nstatus := 257 } = false := by decide
theorem test_wf_regId_refuses : wfRegId (withTable [{ someDesc with regId := [0x52] }]) = false := by decide
theorem test_wf_uniq_refuses : wfUniq (withTable [someDesc, someDesc]) = false := by decide +kernel
theorem test_wf_len_refuses : wfLen (withTable [{ someDesc with behQw := some .digits, dparam := 44 }]) = false := by
  decide
theorem test_wf_dparam_refuses : wfDparam (withTable [{ someDesc with behQw := some .temp16, dparam := 1 }]) = false := by
  decide
theorem test_wf_range_refuses :
    wfRange (withTable [{ someDesc with behQw := some .percent, range := some (0, 101) }]) = false := by decide
theorem test_wf_status_refuses :
    wfStatus (withTable [{ someDesc with behRr := some .flag, behRw := some .flag, statusField := some 0 }]) = false := by
  decide
theorem test_wf_statusUniq_refuses :
    wfStatusUniq (withTable [{ someDesc with statusField := some 0 }, { someDesc with statusField := some 0 }]) = false := by
  decide +kernel
theorem test_wf_roundTrip_refuses :
    wfRoundTrip (withTable [{ someDesc with behQw := some .flag, behRw := some .percent }]) = false := by decide
theorem test_create_refuses :
    (match State.create { Config.reference with cap := 20 } with | .refused .illegalConfig => true | _ => false) = true := by
  decide +kernel

/-! ### Decoding: every constructor's word, bit by bit (OPC, SEL, IMM) -/

/-- The instruction of a word, with ARG `[A5]` and VALUE 7. -/
def decoded (w : CmdWord) : Decoded := decode { cmd := w, arg := [0xA5], value := 7 }

theorem test_words_buffer :
    [0b0000_0000_00000000, 0b0001_0000_00000000, 0b0010_0000_00000000, 0b0010_0000_00000001, 0b0011_0000_00010111,
      0b0100_0000_00000000, 0b0101_0000_00000000].map decoded
    = [.instr .nop, .instr (.append [0xA5]), .instr .process, .instr .processNc, .instr (.consume 23),
      .instr .resetBuf, .instr (.crc8 [0xA5] 7)] := by decide +kernel

theorem test_words_decode :
    [0b0110_0000_00000000, 0b0110_0001_00000000, 0b0110_0010_00000000, 0b0110_0011_00000000, 0b0110_0100_00000000,
      0b0110_0101_00000000, 0b0110_0110_00000000, 0b0110_0111_00000010, 0b0110_1000_00000100, 0b0110_1001_00000000,
      0b0110_1010_00000000, 0b0110_1011_00000000].map decoded
    = [.instr (.decodeTemp16 [0xA5]), .instr (.decodeTemp8 [0xA5]), .instr (.decodeFreq16 [0xA5]),
      .instr (.decodePercent [0xA5]), .instr (.decodeTimeHm [0xA5]), .instr (.decodeDateDmy [0xA5]),
      .instr (.decodeFlag [0xA5]), .instr (.decodeEnum 2 [0xA5]), .instr (.decodeDigits 4 [0xA5]),
      .instr (.decodeAlarmClear [0xA5]), .instr (.decodeGeneric16 [0xA5]), .instr (.decodeEmpty [0xA5])] := by
  decide +kernel

theorem test_words_encode :
    [0b0111_0000_00000000, 0b0111_0001_00000000, 0b0111_0010_00000000, 0b0111_0011_00000000, 0b0111_0100_00000000,
      0b0111_0101_00000000, 0b0111_0110_00000000, 0b0111_0111_00000010, 0b0111_1000_00000100, 0b0111_1001_00000000,
      0b0111_1010_00000000, 0b0111_1011_00000000].map decoded
    = [.instr (.encodeTemp16 7), .instr (.encodeTemp8 7), .instr (.encodeFreq16 7), .instr (.encodePercent 7),
      .instr (.encodeTimeHm 7), .instr (.encodeDateDmy 7), .instr (.encodeFlag 7), .instr (.encodeEnum 2 7),
      .instr (.encodeDigits 4 [0xA5]), .instr .encodeAlarmClear, .instr (.encodeGeneric16 7), .instr .encodeEmpty] := by
  decide +kernel

theorem test_words_host :
    [0b1000_0000_00000000, 0b1000_0001_00000000, 0b1001_0000_00000000, 0b1001_0001_00000000, 0b1010_0000_00000000,
      0b1010_0001_00000000, 0b1011_0000_00000111, 0b1100_0000_00000000, 0b1101_0000_00000000].map decoded
    = [.instr (.submitRead [0xA5] 7), .instr (.submitWrite [0xA5] 7), .instr (.setAddrHp [0xA5]),
      .instr (.setAddrCtrl [0xA5]), .instr .setGrabOff, .instr (.setGrabOn 7), .instr (.readStatus 7), .instr .readGrab,
      .instr .readState] := by decide +kernel

/-- V-E2, V-E4 to V-E6, V-E8 to V-E13, and each fixed field of the other formats. -/
theorem test_words_illegal :
    [0x0001, 0x2002, 0x2100, 0x6001, 0x6C00, 0x7F00, 0x8200, 0xA200, 0xB107, 0xE000, 0xFFFF, 0x0100, 0x1001, 0x3100,
      0x4001, 0x5100, 0x6B01, 0x7C00, 0x8001, 0x9200, 0xA001, 0xC001, 0xD100].all
      (fun w => decoded w == .rejected .illegalCmd) = true := by decide +kernel

theorem test_encode_word : (encode (.encodeEnum 2 7)).cmd = 0b0111_0111_00000010 ∧ (encode .processNc).cmd = 0x2001 := by
  decide +kernel

theorem test_tableWord :
    decodeTableWord 16 0x3017 = some (.consume 23) ∧ decodeTableWord 16 0x6C00 = none := by decide +kernel

/-! ### The assembler notation (R77): the lines of programs V-P1 and V-P5 -/

theorem test_line_submit :
    assembleLine Config.reference "SUBMIT.WRITE TSET, 215" = some [⟨0x8100, refId 0x01, 215⟩] := by decide +kernel
theorem test_line_pseudo :
    assembleLine Config.reference "SET_ADDRS [11 22 33 44], [55 66 77 88]"
      = some [⟨0x9000, [0x11, 0x22, 0x33, 0x44], 0⟩, ⟨0x9100, [0x55, 0x66, 0x77, 0x88], 0⟩] ∧
    assembleLine Config.reference "PEEK" = some [⟨0x2001, [], 0⟩] := by decide +kernel

/-! ### One step of each instruction -/

/-- V-E1 and V-E2. -/
theorem test_nop : answer State.reset 0x0000 [1] 7 = some {} := by decide +kernel
theorem test_illegal : after State.reset 0x0001 [] 0
    = some { State.reset with results := [{ status := .illegalCmd }] } := by decide +kernel

/-- V-B2 and V-B3. -/
theorem test_append_part : answer (holding (List.replicate 60 0xFF)) 0x1000 [1, 2, 3, 4, 5, 6] 0
    = some { value := 4, valid := true } := by decide +kernel
theorem test_append_keeps_order :
    (after (holding [0xAA]) 0x1000 [0xBB, 0xCC] 0).bind State.buf = some [0xAA, 0xBB, 0xCC] := by decide +kernel

/-- V-B5 and V-B6. -/
theorem test_consume : (after (holding [0xAA, 0xBB, 0xCC]) 0x3002 [] 0).bind State.buf = some [0xCC] := by decide +kernel
theorem test_consume_too_many : answer (holding [0xCC]) 0x3002 [] 0 = some { status := .badOperand } := by decide +kernel

/-- V-B8. -/
theorem test_resetBuf : (after (holding (List.replicate 17 0)) 0x4000 [] 0).map State.fill = some 0 := by decide +kernel

/-- V-C11 and V-C13. -/
theorem test_crc8 : answer State.reset 0x5000 [0, 1, 2] 0x00010002 = some { value := 0x1B, valid := true } := by
  decide +kernel
theorem test_crc8_past_end :
    answer State.reset 0x5000 [0x31, 0x32, 0x33, 0x34, 0x35, 0x36, 0x37, 0x38, 0x39] 0x0000000A
      = some { status := .badOperand } := by decide +kernel

/-- V-A3: the record, and the end state. -/
theorem test_process_reply : (answer (holding fa3) 0x2000 [] 0).map
      (fun r => (r.resClass, r.disp, r.value, r.field))
    = some (.reply, .ok, 0xFFFFFFC9, some 0) := by decide +kernel
theorem test_process_projects : (after (holding fa3) 0x2000 [] 0).map
      (fun t => (t.fill, t.expLen, t.status.head?))
    = some (0, none, some (some { kind := .temp16, value := 0xFFFFFFC9, bytes := [] })) := by decide +kernel

/-- V-P5 step 2, and V-D6. -/
theorem test_processNc_keeps : (after (holding (fa3 ++ f42)) 0x2001 [] 0).map (fun t => (t.fill, t.expLen))
    = some (45, some 23) := by decide +kernel
theorem test_processNc_drops_bad_crc : (after (holding f42c) 0x2001 [] 0).map
      (fun t => (t.fill, t.lastResult)) = some (0, some { resClass := .corrupted, cause := .crc }) := by decide +kernel

/-- V-K3 and V-K4. -/
theorem test_decodeTemp16 : answer State.reset 0x6000 [0x00, 0x80] 0 = some { value := 0xFFFF8000, valid := true } := by
  decide +kernel
theorem test_decodeTemp16_length : answer State.reset 0x6000 [0xD7] 0
    = some { status := .decodeFault, cause := .length } := by decide +kernel
/-- V-K5. -/
theorem test_decodeTemp8 : answer State.reset 0x6100 [0xFD] 0
    = some { value := 0xFFFFFFFD, kind := 1, valid := true } := by decide +kernel
/-- V-K6. -/
theorem test_decodeFreq16 : answer State.reset 0x6200 [0x0B, 0x02] 0
    = some { value := 523, kind := 2, valid := true } := by decide +kernel
/-- V-A4. -/
theorem test_decodePercent : answer State.reset 0x6300 [0x64] 0 = some { value := 100, kind := 3, valid := true } := by
  decide +kernel
theorem test_decodePercent_range : answer State.reset 0x6300 [0x96] 0
    = some { status := .decodeFault, cause := .range } := by decide +kernel
/-- V-K9. -/
theorem test_decodeTimeHm : answer State.reset 0x6400 [0x17, 0x3B] 0
    = some { value := 0x173B, kind := 4, valid := true } := by decide +kernel
theorem test_decodeTimeHm_range : answer State.reset 0x6400 [0x00, 0x3C] 0
    = some { status := .decodeFault, cause := .range } := by decide +kernel
/-- V-K10 and V-K12. -/
theorem test_decodeDateDmy : answer State.reset 0x6500 [0x1D, 0x02, 0x18] 0
    = some { value := 0x07E8021D, kind := 5, valid := true } := by decide +kernel
theorem test_decodeDateDmy_range : answer State.reset 0x6500 [0x01, 0x00, 0x00] 0
    = some { status := .decodeFault, cause := .range } := by decide +kernel
/-- V-K13. -/
theorem test_decodeFlag : answer State.reset 0x6600 [0x01] 0 = some { value := 1, kind := 6, valid := true } := by
  decide +kernel
/-- V-K14. -/
theorem test_decodeEnum : answer State.reset 0x6702 [0x02] 0 = some { value := 2, kind := 7, valid := true } := by
  decide +kernel
theorem test_decodeEnum_range : answer State.reset 0x6702 [0x03] 0
    = some { status := .decodeFault, cause := .range } := by decide +kernel
/-- V-K16 and V-K17. -/
theorem test_decodeDigits : answer State.reset 0x6804 [0x31, 0x32, 0x33, 0x34] 0
    = some { bytes := [0x31, 0x32, 0x33, 0x34], kind := 8, valid := true } := by decide +kernel
theorem test_decodeDigits_length : answer State.reset 0x6804 [0x31, 0x32, 0x33] 0
    = some { status := .decodeFault, cause := .length } := by decide +kernel
/-- V-K19. -/
theorem test_decodeAlarmClear : answer State.reset 0x6900 [0xFF] 0 = some { kind := 9, valid := true } := by decide +kernel
/-- V-K20. -/
theorem test_decodeGeneric16 : answer State.reset 0x6A00 [0x34, 0x12] 0
    = some { value := 0x1234, kind := 10, valid := true } := by decide +kernel
/-- V-K21. -/
theorem test_decodeEmpty : answer State.reset 0x6B00 [] 0 = some { kind := 11, valid := true } := by decide +kernel
theorem test_decodeEmpty_length : answer State.reset 0x6B00 [0x00] 0
    = some { status := .decodeFault, cause := .length } := by decide +kernel

/-- V-N1 and V-N3. -/
theorem test_encodeTemp16 : answer State.reset 0x7000 [] 0xFFFFFFF1 = some { bytes := [0xF1, 0xFF], valid := true } := by
  decide +kernel
theorem test_encodeTemp16_range : answer State.reset 0x7000 [] 0x00008000
    = some { status := .encodeFault, cause := .range } := by decide +kernel
/-- V-N4. -/
theorem test_encodeTemp8 : answer State.reset 0x7100 [] 0xFFFFFFFD = some { bytes := [0xFD], kind := 1, valid := true } := by
  decide +kernel
theorem test_encodeTemp8_range : answer State.reset 0x7100 [] 0x00000080
    = some { status := .encodeFault, cause := .range } := by decide +kernel
/-- V-N5. -/
theorem test_encodeFreq16 : answer State.reset 0x7200 [] 523 = some { bytes := [0x0B, 0x02], kind := 2, valid := true } := by
  decide +kernel
/-- V-N6. -/
theorem test_encodePercent : answer State.reset 0x7300 [] 100 = some { bytes := [0x64], kind := 3, valid := true } := by
  decide +kernel
/-- V-N7. -/
theorem test_encodeTimeHm : answer State.reset 0x7400 [] 0x071E
    = some { bytes := [0x07, 0x1E], kind := 4, valid := true } := by decide +kernel
theorem test_encodeTimeHm_range : answer State.reset 0x7400 [] 0x0001071E
    = some { status := .encodeFault, cause := .range } := by decide +kernel
/-- V-N8. -/
theorem test_encodeDateDmy : answer State.reset 0x7500 [] 0x08CF0101
    = some { bytes := [0x01, 0x01, 0xFF], kind := 5, valid := true } := by decide +kernel
theorem test_encodeDateDmy_range : answer State.reset 0x7500 [] 0x07CF0101
    = some { status := .encodeFault, cause := .range } := by decide +kernel
/-- V-N9. -/
theorem test_encodeFlag : answer State.reset 0x7600 [] 1 = some { bytes := [0x01], kind := 6, valid := true } := by
  decide +kernel
/-- V-N10. -/
theorem test_encodeEnum : answer State.reset 0x7702 [] 2 = some { bytes := [0x02], kind := 7, valid := true } := by
  decide +kernel
/-- V-N11. -/
theorem test_encodeDigits : answer State.reset 0x7804 [0x31, 0x32, 0x33, 0x34] 0
    = some { bytes := [0x31, 0x32, 0x33, 0x34], kind := 8, valid := true } := by decide +kernel
theorem test_encodeDigits_length : answer State.reset 0x7804 [0x31, 0x32, 0x33] 0
    = some { status := .encodeFault, cause := .length } := by decide +kernel
/-- V-N12. -/
theorem test_encodeAlarmClear : answer State.reset 0x7900 [] 99 = some { bytes := [0x01], kind := 9, valid := true } := by
  decide +kernel
/-- V-N13. -/
theorem test_encodeGeneric16 : answer State.reset 0x7A00 [] 0x1234
    = some { bytes := [0x34, 0x12], kind := 10, valid := true } := by decide +kernel
/-- V-N14. -/
theorem test_encodeEmpty : answer State.reset 0x7B00 [] 99 = some { kind := 11, valid := true } := by decide +kernel

/-- V-Q2 and V-Q21. -/
theorem test_submitRead : (after addressed 0x8000 (refId 0x01) 0).map State.tx = some [query 0 0x72 0x01 [0x1B]] := by
  decide +kernel
theorem test_submitRead_unsupported : answer addressed 0x8000 (refId 0x02) 0 = some { status := .unsupported } := by
  decide +kernel
/-- V-Q3 and V-Q27. -/
theorem test_submitWrite : (after addressed 0x8100 (refId 0x01) 215).map State.tx = some [qwt] := by decide +kernel
theorem test_submitWrite_range_before_address : answer State.reset 0x8100 (refId 0x01) 605
    = some { status := .encodeFault, cause := .range } := by decide +kernel

/-- V-G2 and V-G4. -/
theorem test_setAddrHp : (after State.reset 0x9000 [0x11, 0x22, 0x33, 0x44] 0).map (fun t => (t.hpAddr, t.hpAddrValid))
    = some (⟨0x11, 0x22, 0x33, 0x44⟩, true) := by decide +kernel
theorem test_setAddrHp_length : answer State.reset 0x9000 [0x11, 0x22, 0x33] 0 = some { status := .badOperand } := by
  decide +kernel
/-- V-G3 and V-G5. -/
theorem test_setAddrCtrl : (after State.reset 0x9100 [0x55, 0x66, 0x77, 0x88] 0).map
      (fun t => (t.ctrlAddr, t.ctrlAddrValid, t.hpAddrValid)) = some (⟨0x55, 0x66, 0x77, 0x88⟩, true, false) := by
  decide +kernel
theorem test_setAddrCtrl_length : answer State.reset 0x9100 [0x55, 0x66, 0x77, 0x88, 0x99] 0
    = some { status := .badOperand } := by decide +kernel
/-- V-P6 step 6. -/
theorem test_setGrabOff :
    (after { State.reset with grabEn := true, grabCap := 16, grabStore := [(0, 0xFF)], grabLen := 1 } 0xA000 [] 0).map
      (fun t => (t.grabEn, t.grabCap, t.grabLen)) = some (false, 16, 0) := by decide +kernel
/-- V-G6 and V-G7. -/
theorem test_setGrabOn : (after State.reset 0xA100 [] 64).map (fun t => (t.grabEn, t.grabCap)) = some (true, 64) := by
  decide +kernel
theorem test_setGrabOn_too_large : answer State.reset 0xA100 [] 65 = some { status := .badOperand } := by decide +kernel
/-- V-G9 and V-G12. -/
theorem test_readStatus : answer State.reset 0xB000 [] 0 = some { field := some 0 } := by decide +kernel
theorem test_readStatus_outside : answer State.reset 0xB008 [] 0 = some { status := .badOperand } := by decide +kernel
/-- V-P6 step 3: the grabbed prefix. -/
theorem test_readGrab :
    answer { State.reset with grabEn := true, grabCap := 64, grabStore := Memory.ofBytes 0 fa3, grabLen := 23 } 0xC000 [] 0
      = some { value := 0x00400017, bytes := fa3, valid := true } := by decide +kernel
/-- V-D2's READ_STATE, with V-G2's configuration byte. -/
theorem test_readState :
    answer { holding (fa3.take 20) with expLen := some 23, hpAddrValid := true } 0xD000 [] 0
      = some { value := 0x00170014, bytes := [0x01], valid := true } := by decide +kernel

/-! ### Witnesses: for every obligation with hypotheses, a state and operands that meet them, clause by clause -/

/-- The state of V-D2: the first 20 bytes of FA3, EXPLEN its length. -/
def partialReply : State := { holding (fa3.take 20) with expLen := some 23 }

/-- The reset state with the grab sink on, and `b` buffered. -/
def grabbing (b : Bytes) : State := { holding b with grabEn := true, grabCap := 16 }

theorem witness_step_runs_decoded_command :
    (issue State.reset 0x3002 [] 0).inputs = .command ⟨0x3002, [], 0⟩ :: [] ∧
    decode ⟨0x3002, [], 0⟩ = .instr (.consume 2) ∧
    decodeTableWord 16 0x0000 = some .nop ∧ decodeTableWord 16 0xD000 = some .readState := by decide +kernel

theorem witness_idle_and_external_reset :
    State.reset.inputs = [] ∧
    ({ State.reset with inputs := [.reset, .command ⟨0x0000, [], 0⟩] } : State).inputs
      = .reset :: [.command ⟨0x0000, [], 0⟩] := by decide +kernel

theorem witness_unmatched_word_is_illegal :
    (([] : Bytes).length ≤ maxArgLen ∧ (zeros 3).length ≤ maxArgLen) ∧
    (⟨"NOP", 0x0000, 0xFFFF⟩ ∈ opcodeTable ∧ OpcodeRow.matchesWord ⟨"NOP", 0x0000, 0xFFFF⟩ 0x0000 = true) ∧
    (⟨"READ_STATUS", 0xB000, 0xFF00⟩ ∈ opcodeTable ∧
      OpcodeRow.matchesWord ⟨"READ_STATUS", 0xB000, 0xFF00⟩ 0xB0FF = true) ∧
    (issue State.reset 0x0001 [] 0).inputs = .command ⟨0x0001, [], 0⟩ :: [] ∧
    (∀ row ∈ opcodeTable, row.matchesWord 0x0001 = false) ∧ (∀ row ∈ opcodeTable, row.matchesWord 0xFFFF = false) := by
  decide +kernel

/-- One word of each clause of R74's list, at the edge of the clause. -/
theorem witness_illegal_words_of_the_list :
    opcOf 0xE000 = 0xE ∧ opcOf 0xFFFF = 0xF ∧ (opcOf 0x3100 = 0x3 ∧ selOf 0x3100 ≠ 0) ∧
    (opcOf 0x8001 = 0x8 ∧ immOf 0x8001 ≠ 0) ∧
    (opcOf 0x6901 = 0x6 ∧ selOf 0x6901 ≠ 0x7 ∧ selOf 0x6901 ≠ 0x8 ∧ immOf 0x6901 ≠ 0) ∧
    (opcOf 0x7C00 = 0x7 ∧ 0xC ≤ (selOf 0x7C00).toNat) ∧ (opcOf 0xA200 = 0xA ∧ 2 ≤ (selOf 0xA200).toNat) ∧
    (opcOf 0x2002 = 0x2 ∧ 2 ≤ (immOf 0x2002).toNat) := by decide +kernel

theorem witness_decode_of_encode :
    (Instr.append (zeros 65535)).WellFormed ∧ Instr.nop.WellFormed ∧ (Instr.decodeEnum 0xFF []).WellFormed :=
  ⟨test_longest_arg_is_wellFormed, by decide, by decide⟩

/-- The longest and the shortest ARG: for every obligation whose clause is about the words of a row. -/
theorem witness_arg_lengths : (zeros 65535).length ≤ maxArgLen ∧ ([] : Bytes).length ≤ maxArgLen :=
  ⟨test_longest_arg_is_wellFormed, by decide⟩

theorem witness_command_words_decode : (zeros 65535).length ≤ maxArgLen ∧ ([] : Bytes).length ≤ maxArgLen :=
  witness_arg_lengths

theorem witness_nop_changes_nothing : (zeros 65535).length ≤ maxArgLen ∧ opcOf 0x0001 = 0x0 ∧ (0x0001 : CmdWord) ≠ 0x0000 :=
  ⟨witness_arg_lengths.1, by decide, by decide⟩

theorem witness_append_accepts_what_fits :
    (opcOf 0x1001 = 0x1 ∧ (0x1001 : CmdWord) ≠ 0x1000) ∧ (holding []).buf = some [] ∧
    (holding (zeros 60)).buf = some (zeros 60) ∧ (holding (zeros 64)).buf = some (zeros 64) ∧
    ¬(60 ≤ 59 ∧ 59 < 60 + min 6 (64 - 60)) ∧ ¬(60 ≤ 64 ∧ 64 < 60 + min 6 (64 - 60)) := by decide +kernel

theorem witness_consume_removes_prefix :
    (opcOf 0x3100 = 0x3 ∧ selOf 0x3100 ≠ 0) ∧ (holding f42).buf = some f42 ∧
    ((0 : Byte).toNat ≤ (holding f42).fill ∧ (22 : Byte).toNat ≤ (holding f42).fill) ∧
    (holding f42).fill < (23 : Byte).toNat := by decide +kernel

theorem witness_resetBuf_empties : opcOf 0x4001 = 0x4 ∧ (0x4001 : CmdWord) ≠ 0x4000 := by decide

theorem witness_crc8_checks_operand :
    (opcOf 0x5001 = 0x5 ∧ (0x5001 : CmdWord) ≠ 0x5000) ∧
    (0x00010002 : Value).toNat / 65536 + (0x00010002 : Value).toNat % 65536 ≤ [0, 1, 2].length ∧
    [0, 1, 2].length < (0x00010003 : Value).toNat / 65536 + (0x00010003 : Value).toNat % 65536 := by decide

theorem witness_crc_table_form :
    Config.reference.crcReflect = false ∧ 9 + 0 ≤ (zeros 9).length ∧ 0 + 9 ≤ (zeros 9).length := by decide

theorem witness_crc_detects_byte_error :
    Config.reference.crcPoly.getLsbD 0 = true ∧ 0 < fa3.length ∧ 22 < fa3.length ∧ (0x80 : Byte) ≠ 0 := by decide

theorem witness_decode_sixteen_bit_kinds :
    (0x80FF = if State.reset.cfg.wordOrder = .le then (0xFF : Byte).toNat + 256 * (0x80 : Byte).toNat
      else 256 * (0xFF : Byte).toNat + (0x80 : Byte).toNat) ∧
    (0xFF80 = if ({ Config.reference with wordOrder := .be } : Config).wordOrder = .le
      then (0xFF : Byte).toNat + 256 * (0x80 : Byte).toNat else 256 * (0xFF : Byte).toNat + (0x80 : Byte).toNat) ∧
    (zeros 1).length ≠ 2 ∧ (zeros 3).length ≠ 2 := by decide +kernel

theorem witness_decode_signed_byte : (zeros 0).length ≠ 1 ∧ (zeros 2).length ≠ 1 := by decide

theorem witness_decode_ranged_byte :
    (100 : Byte).toNat ≤ 100 ∧ 100 < (101 : Byte).toNat ∧ (1 : Byte).toNat ≤ 1 ∧ 1 < (2 : Byte).toNat ∧
    (2 : Byte).toNat ≤ (2 : Byte).toNat ∧ (2 : Byte).toNat < (3 : Byte).toNat ∧ (zeros 0).length ≠ 1 ∧
    (zeros 2).length ≠ 1 := by decide

theorem witness_decode_time_and_date :
    ((23 : Byte).toNat ≤ 23 ∧ (59 : Byte).toNat ≤ 59) ∧ 23 < (24 : Byte).toNat ∧ 59 < (60 : Byte).toNat ∧
    (1 ≤ (31 : Byte).toNat ∧ (31 : Byte).toNat ≤ 31 ∧ 1 ≤ (12 : Byte).toNat ∧ (12 : Byte).toNat ≤ 12) ∧
    (0 : Byte).toNat < 1 ∧ 31 < (32 : Byte).toNat ∧ 12 < (13 : Byte).toNat ∧ (zeros 1).length ≠ 2 ∧
    (zeros 3).length ≠ 2 ∧ (zeros 2).length ≠ 3 ∧ (zeros 4).length ≠ 3 := by decide

theorem witness_decode_pass_through :
    (zeros 4).length = (4 : Byte).toNat ∧ (zeros 0).length = (0 : Byte).toNat ∧ (zeros 3).length ≠ (4 : Byte).toNat ∧
    (zeros 0).length ≠ 1 ∧ zeros 1 ≠ [] := by decide

theorem witness_decode_checks_length_first :
    ({ Config.reference with yearBase := 65280 } : Config).yearBase ≤ 65535 - 255 ∧ (zeros 1).length ≠ dlen .temp16 0 ∧
    (zeros 3).length ≠ dlen .temp16 0 ∧ (zeros 2).length = dlen .temp16 0 := by decide

theorem witness_encode_temperatures :
    (-32768 ≤ (0xFFFF8000 : Value).toInt ∧ (0x7FFF : Value).toInt ≤ 32767) ∧
    ((0xFFFF7FFF : Value).toInt < -32768 ∧ 32767 < (0x8000 : Value).toInt) ∧
    (-128 ≤ (0xFFFFFF80 : Value).toInt ∧ (0x7F : Value).toInt ≤ 127) ∧
    ((0xFFFFFF7F : Value).toInt < -128 ∧ 127 < (0x80 : Value).toInt) := by decide

theorem witness_encode_sixteen_bit_kinds :
    (0xFFFF : Value).toNat ≤ 65535 ∧ 65535 < (0x10000 : Value).toNat := by decide

theorem witness_encode_ranged_byte :
    (100 : Value).toNat ≤ 100 ∧ 100 < (101 : Value).toNat ∧ (1 : Value).toNat ≤ 1 ∧ 1 < (2 : Value).toNat ∧
    (2 : Value).toNat ≤ (2 : Byte).toNat ∧ (2 : Byte).toNat < (3 : Value).toNat := by decide

/-- Hour 23:59, and each field one past its range; the first and the last date of the year range, and each field one
past its range. -/
theorem witness_encode_time_and_date :
    ((0x173B : Value).toNat = 0 * 65536 + 23 * 256 + 59 ∧ (0x1800 : Value).toNat = 0 * 65536 + 24 * 256 + 0 ∧
      (0x003C : Value).toNat = 0 * 65536 + 0 * 256 + 60 ∧ (0x00010000 : Value).toNat = 1 * 65536 + 0 * 256 + 0) ∧
    ((0x07D00101 : Value).toNat = 2000 * 65536 + 1 * 256 + 1 ∧
      (0x08CF0C1F : Value).toNat = (2000 + 255) * 65536 + 12 * 256 + 31 ∧ State.reset.cfg.yearBase = 2000) ∧
    ((0x07CF0101 : Value).toNat = 1999 * 65536 + 1 * 256 + 1 ∧
      (0x08D00101 : Value).toNat = 2256 * 65536 + 1 * 256 + 1 ∧
      (0x07D00D20 : Value).toNat = 2000 * 65536 + 13 * 256 + 32 ∧
      (0x07D00000 : Value).toNat = 2000 * 65536 + 0 * 256 + 0) := by decide +kernel

theorem witness_encode_pass_through :
    (zeros 4).length = (4 : Byte).toNat ∧ (zeros 3).length ≠ (4 : Byte).toNat := by decide

/-- TSET: DIGITS aside, a kind with a value; CODE: DIGITS. -/
theorem witness_codec_round_trip :
    encodeKernel Config.reference .temp16 0 215 [] = .ok [0xD7, 0x00] ∧
    encodeKernel Config.reference .digits 4 0 [0x31, 0x32, 0x33, 0x34] = .ok [0x31, 0x32, 0x33, 0x34] ∧
    configOk Config.reference = true ∧
    (∃ desc ∈ Config.reference.regTable, desc.behQw = some .temp16 ∧ desc.dparam = 0 ∧ desc.behRw = some .temp16) ∧
    (∃ desc ∈ Config.reference.regTable, desc.behQw = some .digits ∧ desc.dparam = 4 ∧ desc.behRw = some .digits) := by
  decide +kernel

theorem witness_process_waits_for_bytes :
    ((holding (zeros 19)).buf = some (zeros 19) ∧ (zeros 19).length < hdrLen) ∧
    ((holding (fa3.take 22)).buf = some (fa3.take 22) ∧ hdrLen ≤ (fa3.take 20).length ∧
      hdrLen + (byteAt (fa3.take 22) 9).toNat + 1 ≤ (holding (fa3.take 22)).cfg.cap ∧
      (fa3.take 22).length < hdrLen + (byteAt (fa3.take 22) 9).toNat + 1) := by decide +kernel

theorem witness_process_drops_bad_header :
    (holding badHeader).buf = some badHeader ∧ hdrLen ≤ badHeader.length ∧
    (holding badHeader).cfg.cap < hdrLen + (byteAt badHeader 9).toNat + 1 := by decide +kernel

theorem wholeFrame_of {b : Bytes} (h : (holding b).buf = some b ∧ hdrLen ≤ b.length ∧ frameLen b ≤ (holding b).cfg.cap ∧
    frameLen b ≤ b.length) : WholeFrame (holding b) b :=
  ⟨h.1, h.2.1, h.2.2.1, h.2.2.2⟩

theorem witness_process_drops_bad_checksum : WholeFrame (holding f42c) f42c ∧ ¬ CrcMatches (holding f42c).cfg f42c :=
  ⟨wholeFrame_of (by decide +kernel), by unfold CrcMatches; decide +kernel⟩

theorem witness_process_unknown_discriminator :
    (WholeFrame (holding badDirection) badDirection ∧ CrcMatches (holding badDirection).cfg badDirection ∧
      byteAt badDirection 8 ≠ (holding badDirection).cfg.dirQuery ∧
      byteAt badDirection 8 ≠ (holding badDirection).cfg.dirReply) ∧
    (WholeFrame (holding badOp) badOp ∧ CrcMatches (holding badOp).cfg badOp ∧
      byteAt badOp 10 ≠ (holding badOp).cfg.opRead ∧ byteAt badOp 10 ≠ (holding badOp).cfg.opWrite) :=
  ⟨⟨wholeFrame_of (by decide +kernel), by unfold CrcMatches; decide +kernel, by decide +kernel, by decide +kernel⟩,
    ⟨wholeFrame_of (by decide +kernel), by unfold CrcMatches; decide +kernel, by decide +kernel, by decide +kernel⟩⟩

theorem witness_process_unknown_register :
    WholeFrame (holding unknownReg) unknownReg ∧ CrcMatches (holding unknownReg).cfg unknownReg ∧
    byteAt unknownReg 8 = (holding unknownReg).cfg.dirReply ∧ byteAt unknownReg 10 = (holding unknownReg).cfg.opRead ∧
    (∀ desc ∈ (holding unknownReg).cfg.regTable, desc.regId ≠ (unknownReg.drop 11).take 9) :=
  ⟨wholeFrame_of (by decide +kernel), by unfold CrcMatches; decide +kernel, by decide +kernel, by decide +kernel,
    by decide +kernel⟩

theorem witness_process_unsupported :
    WholeFrame (holding readAclr) readAclr ∧ CrcMatches (holding readAclr).cfg readAclr ∧
    NamesDirection Config.reference (byteAt readAclr 8) .reply ∧
    NamesOp Config.reference (byteAt readAclr 10) .read ∧
    TheRegister Config.reference ((readAclr.drop 11).take 9) refAlarmClear ∧
    HasBehaviour refAlarmClear .reply .read none :=
  ⟨wholeFrame_of (by decide +kernel), by unfold CrcMatches; decide +kernel, by decide +kernel, by decide +kernel,
    by decide +kernel, by decide +kernel⟩

/-- The RANGE fault of V-D7 and the LENGTH fault of V-D8. -/
theorem witness_process_decode_fault :
    (WholeFrame (holding f150) f150 ∧ CrcMatches (holding f150).cfg f150 ∧
      NamesDirection Config.reference (byteAt f150 8) .reply ∧ NamesOp Config.reference (byteAt f150 10) .read ∧
      (∃ desc, TheRegister Config.reference ((f150.drop 11).take 9) desc ∧
        HasBehaviour desc .reply .read (some .percent) ∧
        decodeKernel Config.reference .percent desc.dparam ((f150.drop 20).take (byteAt f150 9).toNat) = .fault .range)) ∧
    (WholeFrame (holding shortTout) shortTout ∧ CrcMatches (holding shortTout).cfg shortTout ∧
      decodeKernel Config.reference .temp16 0 ((shortTout.drop 20).take (byteAt shortTout 9).toNat) = .fault .length) :=
  ⟨⟨wholeFrame_of (by decide +kernel), by unfold CrcMatches; decide +kernel, by decide +kernel, by decide +kernel,
      ⟨refStatus 0x04 "FANST" "fan speed now" .percent 1, by decide +kernel, by decide +kernel, by decide +kernel⟩⟩,
    ⟨wholeFrame_of (by decide +kernel), by unfold CrcMatches; decide +kernel, by decide +kernel⟩⟩

/-- The register TOUT of the reference table. -/
def tout : Descriptor := refStatus 0x02 "TOUT" "outdoor temperature" .temp16 0
/-- The register TSET of the reference table. -/
def tset : Descriptor := refSetting 0x01 "TSET" "room setpoint" .temp16 0 (some (100, 600))

/-- A reply with a status field (V-A3), a reply without one (V-D15), and a query (V-D14). -/
theorem witness_process_decodes_and_projects :
    (WholeFrame (holding fa3) fa3 ∧ CrcMatches (holding fa3).cfg fa3 ∧
      NamesDirection Config.reference (byteAt fa3 8) .reply ∧ NamesOp Config.reference (byteAt fa3 10) .read ∧
      TheRegister Config.reference ((fa3.drop 11).take 9) tout ∧ HasBehaviour tout .reply .read (some .temp16) ∧
      decodeKernel Config.reference .temp16 tout.dparam ((fa3.drop 20).take (byteAt fa3 9).toNat) = .ok 0xFFFFFFC9 [] ∧
      tout.statusField = some 0) ∧
    (WholeFrame (holding writeTset) writeTset ∧ CrcMatches (holding writeTset).cfg writeTset ∧
      TheRegister Config.reference ((writeTset.drop 11).take 9) tset ∧
      HasBehaviour tset .reply .write (some .temp16) ∧ tset.statusField = none ∧
      decodeKernel Config.reference .temp16 0 ((writeTset.drop 20).take (byteAt writeTset 9).toNat) = .ok 215 []) ∧
    (WholeFrame (holding otherQuery) otherQuery ∧ CrcMatches (holding otherQuery).cfg otherQuery ∧
      NamesDirection Config.reference (byteAt otherQuery 8) .query ∧
      decodeKernel Config.reference .flag 0 ((otherQuery.drop 20).take (byteAt otherQuery 9).toNat) = .ok 1 []) :=
  ⟨⟨wholeFrame_of (by decide +kernel), by unfold CrcMatches; decide +kernel, by decide +kernel, by decide +kernel,
      by decide +kernel, by decide +kernel, by decide +kernel, by decide +kernel⟩,
    ⟨wholeFrame_of (by decide +kernel), by unfold CrcMatches; decide +kernel, by decide +kernel, by decide +kernel,
      by decide +kernel, by decide +kernel⟩,
    ⟨wholeFrame_of (by decide +kernel), by unfold CrcMatches; decide +kernel, by decide +kernel, by decide +kernel⟩⟩

theorem witness_frame_record_fields :
    hdrLen ≤ fa3.length ∧ fa3.length = frameLen fa3 ∧ Config.reference.dirQuery ≠ Config.reference.dirReply ∧
    Config.reference.opRead ≠ Config.reference.opWrite := by decide +kernel

/-- The record of one PROCESS step on `b` in the state `s`. -/
def recordOf (s : State) (b : Bytes) : Option Result := (processStep false b s).lastResult

/-- A step on a buffer, as the hypotheses of the PROCESS obligations ask for it. -/
theorem process_runs {s : State} {b : Bytes} (nc : Bool) (h : s.buf = some b) :
    ∃ r, exec (processCmd nc) s = .next (processStep nc b s) ∧ (processStep nc b s).results = s.results ++ [r] := by
  obtain ⟨r, hr⟩ := processStep_results nc b s
  exact ⟨r, exec_processCmd_of_buf nc h, hr⟩

/-- A PFT_NONE step, a step with the sink off, a header grab and a frame grab. -/
theorem witness_grab_copies_raw_frame :
    (∃ r, exec (processCmd false) (grabbing (fa3.take 19)) = .next (processStep false (fa3.take 19) (grabbing (fa3.take 19))) ∧
      (processStep false (fa3.take 19) (grabbing (fa3.take 19))).results = (grabbing (fa3.take 19)).results ++ [r]) ∧
    (recordOf (grabbing (fa3.take 19)) (fa3.take 19)).map Result.resClass = some .none ∧
    (holding fa3).grabEn = false ∧ (grabbing badHeader).grabEn = true ∧
    (recordOf (grabbing badHeader) badHeader).map (fun r => (r.resClass, r.cause)) = some (.corrupted, .header) ∧
    (recordOf (grabbing fa3) fa3).map (fun r => (r.resClass, r.cause)) = some (.reply, .none) :=
  ⟨process_runs false (by decide +kernel), by decide +kernel, by decide +kernel, by decide +kernel, by decide +kernel,
    by decide +kernel⟩

/-- A full buffer with a bad header, and one whose 64 bytes are one frame with a bad checksum. -/
theorem witness_full_buffer_progresses :
    (21 ≤ (holding (List.replicate 64 0xFF)).cfg.cap ∧
      (holding (List.replicate 64 0xFF)).buf = some (List.replicate 64 0xFF) ∧
      (holding (List.replicate 64 0xFF)).fill = (holding (List.replicate 64 0xFF)).cfg.cap ∧
      (holding (List.replicate 64 0xFF)).cfg.cap < frameLen (List.replicate 64 0xFF)) ∧
    ¬ CrcMatches Config.reference (List.replicate 9 0 ++ [43] ++ List.replicate 54 1) ∧
    (List.replicate 9 0 ++ [43] ++ List.replicate 54 (1 : Byte)).length = Config.reference.cap :=
  ⟨by decide +kernel, by unfold CrcMatches; decide +kernel, by decide +kernel⟩

theorem witness_drain_ends : (holding (f42c ++ fa3)).buf = some (f42c ++ fa3) := by decide +kernel

/-- The reset state is one that the invariant holds of. -/
theorem reset_inv : State.reset.Inv where
  config := by decide +kernel
  bufKeys := rfl
  fillLe := Nat.zero_le _
  expLen := fun _ h => by cases h
  grabKeys := rfl
  grabLenLe := Nat.zero_le _
  grabCapLe := Nat.zero_le _
  statusLen := by decide +kernel

/-- So is the state of V-D2, with a buffered header and EXPLEN set. -/
theorem partialReply_inv : partialReply.Inv where
  config := by decide +kernel
  bufKeys := by decide +kernel
  fillLe := by decide +kernel
  expLen := fun len h => by
    have h : some 23 = some len := h
    cases h
    exact ⟨by decide +kernel, ⟨2, by decide +kernel, by decide +kernel⟩, by decide +kernel⟩
  grabKeys := rfl
  grabLenLe := Nat.zero_le _
  grabCapLe := Nat.zero_le _
  statusLen := by decide +kernel

theorem witness_delivery_independent_of_chunks :
    State.reset.Inv ∧ exec .process State.reset = .next (returns State.reset { status := .ok }) ∧
    ([f42c ++ fa3] : List Bytes).flatten = ((f42c ++ fa3).map fun b => [b]).flatten :=
  ⟨reset_inv, rfl, by decide +kernel⟩

/-- The same from a drained state with a partial frame in the buffer. -/
theorem witness_delivery_from_partial_frame :
    partialReply.Inv ∧ processStep false (fa3.take 20) partialReply = returns partialReply { status := .ok } :=
  ⟨partialReply_inv, by decide +kernel⟩

theorem witness_processNc_repeats :
    (holding fa3).buf = some fa3 ∧
    (∃ r, exec (processCmd true) (holding fa3) = .next (processStep true fa3 (holding fa3)) ∧
      (processStep true fa3 (holding fa3)).results = (holding fa3).results ++ [r]) ∧
    (processStep true fa3 (holding fa3)).lastResult.map Result.resClass = some .reply ∧
    (processStep true otherQuery (holding otherQuery)).lastResult.map Result.resClass = some .query ∧
    (processStep true badOp (holding badOp)).lastResult.map Result.resClass = some .unknown :=
  ⟨by decide +kernel, process_runs true (by decide +kernel), by decide +kernel, by decide +kernel, by decide +kernel⟩

theorem witness_corrupted_then_valid :
    ((holding (f42c ++ fa3)).buf = some (f42c ++ fa3) ∧ f42c.length = frameLen f42c ∧ fa3.length = frameLen fa3 ∧
      hdrLen ≤ f42c.length ∧ hdrLen ≤ fa3.length ∧ f42c.length + fa3.length ≤ Config.reference.cap ∧
      Config.reference.dirQuery ≠ Config.reference.dirReply) ∧
    ¬ CrcMatches Config.reference f42c ∧ CrcMatches Config.reference fa3 ∧
    (byteAt fa3 8 = Config.reference.dirReply ∧ NamesOp Config.reference (byteAt fa3 10) .read ∧
      TheRegister Config.reference ((fa3.drop 11).take 9) tout ∧ HasBehaviour tout .reply .read (some .temp16) ∧
      decodeKernel Config.reference .temp16 tout.dparam ((fa3.drop 20).take (byteAt fa3 9).toNat) = .ok 0xFFFFFFC9 [] ∧
      tout.statusField = some 0) :=
  ⟨by decide +kernel, by unfold CrcMatches; decide +kernel, by unfold CrcMatches; decide +kernel, by decide +kernel⟩

/-- A query with DS_OK, a reply with a fault, and a reply without a status field. -/
theorem witness_only_decoded_replies_write_status :
    (∃ r, exec (processCmd false) (holding otherQuery) = .next (processStep false otherQuery (holding otherQuery)) ∧
      (processStep false otherQuery (holding otherQuery)).results = (holding otherQuery).results ++ [r]) ∧
    (recordOf (holding otherQuery) otherQuery).map Result.resClass = some .query ∧
    (recordOf (holding f150) f150).map (fun r => (r.resClass, r.disp)) = some (.reply, .decodeFault) ∧
    (recordOf (holding writeTset) writeTset).map (fun r => (r.disp, r.field)) = some (.ok, none) :=
  ⟨process_runs false (by decide +kernel), by decide +kernel, by decide +kernel, by decide +kernel⟩

/-- Each check of R241 in turn: V-Q24, V-Q23, V-Q21, V-Q25, V-Q10, V-Q6, V-Q1. -/
theorem witness_submit_check_order :
    (opcOf 0x8200 = 0x8 ∧ (0x8200 : CmdWord) ≠ 0x8000 ∧ (0x8200 : CmdWord) ≠ 0x8100) ∧
    ((refId 0x01).take 8).length < 9 ∧ 9 ≤ (refId 0x7F).length ∧
    (∀ desc ∈ addressed.cfg.regTable, desc.regId ≠ (refId 0x7F).take 9) ∧
    (TheRegister addressed.cfg ((refId 0x02).take 9) tout ∧ HasBehaviour tout .query .read none) ∧
    (TheRegister addressed.cfg ((refId 0x01 ++ [0]).take 9) tset ∧ HasBehaviour tset .query .write (some .temp16) ∧
      (refId 0x01 ++ [0]).drop 9 ≠ [] ∧ Kind.temp16 ≠ .digits) ∧
    ((refId 0x01).drop 9 = [] ∧ encodeKernel addressed.cfg .temp16 tset.dparam 0x8000 [] = .fault .range) ∧
    encodeKernel addressed.cfg .temp16 tset.dparam 601 ((refId 0x01).drop 9) = .ok [0x59, 0x02] ∧
    (State.reset.hpAddrValid = false ∨ State.reset.ctrlAddrValid = false) := by decide +kernel

/-- TSET's range holds at 100 and at 600, and fails at 99 and at 601. -/
theorem witness_submit_range :
    RangeHolds .write tset .temp16 100 ∧ RangeHolds .write tset .temp16 600 ∧ ¬ RangeHolds .write tset .temp16 99 ∧
    ¬ RangeHolds .write tset .temp16 601 := by
  refine ⟨fun _ a b h => ?_, fun _ a b h => ?_, fun h => ?_, fun h => ?_⟩
  · cases h; decide
  · cases h; decide
  · exact absurd (h rfl 100 600 rfl) (by decide)
  · exact absurd (h rfl 100 600 rfl) (by decide)

theorem witness_submit_emits_frame :
    (9 ≤ (refId 0x01).length ∧ TheRegister addressed.cfg ((refId 0x01).take 9) tset ∧
      HasBehaviour tset .query .write (some .temp16) ∧ (refId 0x01).drop 9 = [] ∧
      encodeKernel addressed.cfg .temp16 tset.dparam 600 ((refId 0x01).drop 9) = .ok [0x58, 0x02] ∧
      addressed.hpAddrValid = true ∧ addressed.ctrlAddrValid = true) ∧
    RangeHolds .write tset .temp16 600 :=
  ⟨by decide +kernel, witness_submit_range.2.1⟩

theorem witness_submitted_frame_echoes :
    configOk addressed.cfg = true ∧
    (exec (submitCmd .write (refId 0x01) 215) addressed = .next (submit .write (refId 0x01) 215 addressed) ∧
      (submit .write (refId 0x01) 215 addressed).tx = addressed.tx ++ [qwt]) ∧
    (holding qwt).cfg = addressed.cfg ∧ (holding qwt).buf = some qwt :=
  ⟨by decide +kernel, ⟨rfl, by decide +kernel⟩, by decide +kernel, by decide +kernel⟩

/-- A frame in TX that is valid. -/
theorem qwt_validOutgoing : ValidOutgoing Config.reference qwt where
  length := by decide +kernel
  fits := by decide +kernel
  query := by decide +kernel
  op := .inr (by decide +kernel)
  register := by decide +kernel
  stamped := by decide +kernel

theorem witness_step_keeps_tx_valid :
    configOk addressed.cfg = true ∧ ({ issue addressed 0x8100 (refId 0x01) 215 with tx := [qwt] } : State).TxValid ∧
    ∃ t, step { issue addressed 0x8100 (refId 0x01) 215 with tx := [qwt] } = .next t :=
  ⟨by decide +kernel, fun f hf => by rw [List.mem_singleton.mp hf]; exact qwt_validOutgoing, ⟨_, rfl⟩⟩

theorem witness_set_addr_writes_address :
    (opcOf 0x9200 = 0x9 ∧ (0x9200 : CmdWord) ≠ 0x9000 ∧ (0x9200 : CmdWord) ≠ 0x9100) ∧ (zeros 3).length ≠ 4 ∧
    (zeros 5).length ≠ 4 := by decide

theorem witness_set_grab_configures_sink :
    (opcOf 0xA200 = 0xA ∧ (0xA200 : CmdWord) ≠ 0xA000 ∧ (0xA200 : CmdWord) ≠ 0xA100) ∧
    (64 : Value).toNat ≤ State.reset.cfg.gcapMax ∧ State.reset.cfg.gcapMax < (65 : Value).toNat := by decide +kernel

/-- The reset state with status field 0 written, as after V-A3. -/
def withStatus : State := { State.reset with status := State.reset.status.set 0 (some ⟨.temp16, 0xFFFFFFC9, []⟩) }

theorem witness_read_status_returns_field :
    (opcOf 0xB107 = 0xB ∧ selOf 0xB107 ≠ 0) ∧
    ((7 : Byte).toNat < withStatus.cfg.nstatus ∧ withStatus.status[(7 : Byte).toNat]? = some none) ∧
    ((0 : Byte).toNat < withStatus.cfg.nstatus ∧
      withStatus.status[(0 : Byte).toNat]? = some (some ⟨.temp16, 0xFFFFFFC9, []⟩)) ∧
    withStatus.cfg.nstatus ≤ (8 : Byte).toNat := by decide +kernel

theorem witness_read_grab_returns_prefix :
    (opcOf 0xC001 = 0xC ∧ (0xC001 : CmdWord) ≠ 0xC000) ∧ State.reset.grabBytes = some [] ∧
    ({ State.reset with grabStore := Memory.ofBytes 0 fa3, grabLen := 23 } : State).grabBytes = some fa3 := by
  decide +kernel

theorem witness_read_state_returns_progress :
    (opcOf 0xD001 = 0xD ∧ (0xD001 : CmdWord) ≠ 0xD000) ∧ State.reset.expLen = none ∧
    partialReply.expLen = some 23 := by decide +kernel

theorem witness_reset_values : 0 < Config.reference.nstatus ∧ 7 < Config.reference.nstatus := by decide

theorem witness_reset_satisfies_invariants : configOk Config.reference = true := test_reference_is_legal

theorem witness_step_keeps_invariant :
    ({ partialReply with inputs := [.command ⟨0x1000, [0xC9, 0xFF, 0x57], 0⟩] } : State).Inv ∧
    ∃ t, step { partialReply with inputs := [.command ⟨0x1000, [0xC9, 0xFF, 0x57], 0⟩] } = .next t := by
  obtain ⟨h1, h2, h3, h4, h5, h6, h7, h8⟩ := partialReply_inv
  exact ⟨⟨h1, h2, h3, h4, h5, h6, h7, h8⟩, ⟨_, rfl⟩⟩

theorem witness_step_keeps_status_legal :
    configOk withStatus.cfg = true ∧ withStatus.StatusLegal ∧ ∃ t, step withStatus = .next t := by
  refine ⟨by decide +kernel, fun f e h => ?_, ⟨_, rfl⟩⟩
  have hs : withStatus.status = some ⟨.temp16, 0xFFFFFFC9, []⟩ :: List.replicate 7 none := by decide +kernel
  rw [hs] at h
  cases f with
  | zero =>
    cases h
    exact ⟨tout, by decide +kernel, rfl, rfl, by decide +kernel⟩
  | succ f =>
    rw [List.getElem?_cons_succ, List.getElem?_replicate] at h
    split at h <;> cases h

theorem witness_every_command_returns_one_result :
    (issue State.reset 0xFFFF [] 0).Inv ∧ (issue State.reset 0xFFFF [] 0).inputs = .command ⟨0xFFFF, [], 0⟩ :: [] ∧
    ([] : Bytes).length ≤ maxArgLen ∧ (zeros 65535).length ≤ maxArgLen := by
  obtain ⟨h1, h2, h3, h4, h5, h6, h7, h8⟩ := reset_inv
  exact ⟨⟨h1, h2, h3, h4, h5, h6, h7, h8⟩, rfl, witness_arg_lengths.2, witness_arg_lengths.1⟩

theorem witness_refused_command_changes_nothing :
    exec (.consume 1) State.reset = .next (refuses State.reset .badOperand .none) ∧
    (refuses State.reset .badOperand .none).results = State.reset.results ++ [{ status := .badOperand }] ∧
    StatusCode.badOperand ≠ .ok ∧
    ((issue State.reset 0xE000 [] 0).inputs = .command ⟨0xE000, [], 0⟩ :: [] ∧
      step (issue State.reset 0xE000 [] 0) = .next (refuses (issue State.reset 0xE000 [] 0) .illegalCmd .none)) := by
  exact ⟨rfl, rfl, by decide, rfl, rfl⟩

/-- A command that owns an element, and one that owns none. -/
theorem witness_only_owners_write :
    (∃ t, exec .resetBuf State.reset = .next t) ∧ (∃ t, exec .nop State.reset = .next t) ∧
    (∀ a, Instr.nop ≠ .append a) ∧ (∀ n, Instr.nop ≠ .consume n) ∧ Instr.nop ≠ .resetBuf ∧ Instr.nop ≠ .process ∧
    Instr.nop ≠ .processNc ∧ 15 < ({ State.reset with grabLen := 16 } : State).grabLen := by
  exact ⟨⟨_, rfl⟩, ⟨_, rfl⟩, by simp, by simp, by decide, by decide, by decide, by decide⟩

/-- Two states that differ in a byte at FILL, a byte at GRAB_LEN and an address not set. -/
theorem witness_unspecified_is_unobservable :
    SameButUnspecified (holding fa3)
      { holding fa3 with
        bufStore := Memory.write (holding fa3).bufStore 23 0xEE, grabStore := [(0, 0xEE)], hpAddr := ⟨1, 2, 3, 4⟩ } where
  cfg := rfl
  buffered := fun a h => by
    have h : a < 23 := h
    have key : ∀ a, a < 23 → Memory.read (holding fa3).bufStore a
        = Memory.read (Memory.write (holding fa3).bufStore 23 0xEE) a := by decide +kernel
    exact key a h
  fill := rfl
  expLen := rfl
  hpValid := rfl
  hpAddr := fun h => by cases h
  ctrlValid := rfl
  ctrlAddr := fun h => by cases h
  grabEn := rfl
  grabCap := rfl
  grabbed := fun a h => absurd h (Nat.not_lt_zero a)
  grabLen := rfl
  status := rfl
  tx := rfl
  inputs := rfl
  results := rfl

/-- The reference parameters with an empty table are legal; CAP = 20 is not. -/
theorem witness_legal_configurations :
    LegalConfig (withTable []) ∧ ¬ LegalConfig { Config.reference with cap := 20 } := by
  refine ⟨?_, fun h => absurd h.cap.1 (by decide)⟩
  constructor <;> simp [withTable, Config.reference]

/-- An id the table has, and one it has not. -/
theorem witness_lookup_and_behaviour :
    configOk Config.reference = true ∧ findRegister Config.reference (refId 0x02) = some tout ∧
    TheRegister Config.reference (refId 0x02) tout ∧ findRegister Config.reference (refId 0x7F) = none := by
  decide +kernel

end Sys2Proof.Tests
end

section
/-! SUPPORT. Creation (O58): one `↔` for each check of a configuration (R8, R9, R98), assembled into the
equivalence of `configOk` and `LegalConfig`, which later proofs use in place of the checks. -/

namespace Sys2Proof.Machine

/-! ### The legal values of R8 -/

theorem wfCap_iff {c : Config} : wfCap c = true ↔ 21 ≤ c.cap ∧ c.cap ≤ 65535 := by
  simp [wfCap]

theorem wfDiscriminators_iff {c : Config} :
    wfDiscriminators c = true ↔ c.dirQuery ≠ c.dirReply ∧ c.opRead ≠ c.opWrite := by
  simp [wfDiscriminators]

theorem wfScales_iff {c : Config} : wfScales c = true ↔ 1 ≤ c.freqDiv ∧ c.yearBase ≤ 65535 - 255 := by
  simp [wfScales]

theorem wfSizes_iff {c : Config} : wfSizes c = true ↔ c.gcapMax ≤ 65535 ∧ c.nstatus ≤ 256 := by
  simp [wfSizes]

/-! ### The checks of R98 on one descriptor -/

/-- A behaviour is present exactly where one of the four fields holds it (R96). -/
theorem mem_behavioursOf {desc : Descriptor} {k : Kind} :
    k ∈ behavioursOf desc ↔
      desc.behQr = some k ∨ desc.behQw = some k ∨ desc.behRr = some k ∨ desc.behRw = some k := by
  simp [behavioursOf, eq_comm]

/-- WF-RANGE of one descriptor. -/
theorem rangeOk_iff {desc : Descriptor} :
    rangeOk desc = true ↔ ∀ vmin vmax, desc.range = some (vmin, vmax) →
      ∃ k lo hi, desc.behQw = some k ∧ intrinsicRange k desc.dparam = some (lo, hi) ∧
        vmin ≤ vmax ∧ lo ≤ vmin ∧ vmax ≤ hi := by
  unfold rangeOk
  obtain hr | ⟨⟨vmin, vmax⟩, hr⟩ := desc.range.eq_none_or_eq_some
  · simp [hr]
  · cases desc.behQw with
    | none => simp [hr]
    | some k =>
      obtain hk | ⟨⟨lo, hi⟩, hk⟩ := (intrinsicRange k desc.dparam).eq_none_or_eq_some
      · simp [hr, hk]
      · simp [hr, hk]

/-- WF-STATUS of one descriptor. -/
theorem statusOk_iff {c : Config} {desc : Descriptor} :
    statusOk c desc = true ↔ ∀ f, desc.statusField = some f →
      f < c.nstatus ∧ desc.behRr ≠ none ∧ desc.behQr = none ∧ desc.behQw = none ∧ desc.behRw = none := by
  unfold statusOk
  cases desc.statusField with
  | none => simp
  | some f => simp [Option.isSome_iff_ne_none, and_assoc]

/-- WF-RT of one descriptor. -/
theorem roundTripOk_iff {desc : Descriptor} :
    roundTripOk desc = true ↔ ∀ k k', desc.behQw = some k → desc.behRw = some k' → k = k' := by
  unfold roundTripOk
  cases desc.behQw with
  | none => simp
  | some k => cases desc.behRw <;> simp

/-! ### The checks of R98 on the table -/

theorem wfRegId_iff {c : Config} : wfRegId c = true ↔ ∀ desc ∈ c.regTable, desc.regId.length = 9 := by
  simp [wfRegId]

/-- WF-UNIQ. -/
theorem wfUniq_iff {c : Config} :
    wfUniq c = true ↔ c.regTable.Pairwise fun x y => x.regId ≠ y.regId := by
  simp [wfUniq, List.Nodup, List.pairwise_map]

/-- WF-LEN. The capacity bound matters: the check subtracts the 21 bytes around a payload (R81) from CAP. -/
theorem wfLen_iff {c : Config} (hcap : 21 ≤ c.cap) :
    wfLen c = true ↔ ∀ desc ∈ c.regTable, ∀ k, (desc.behQr = some k ∨ desc.behQw = some k ∨ desc.behRr = some k ∨
      desc.behRw = some k) → dlen k desc.dparam + 21 ≤ c.cap := by
  simp only [wfLen, List.all_eq_true, decide_eq_true_eq, mem_behavioursOf, Nat.le_sub_iff_add_le hcap]

/-- WF-DPARAM. -/
theorem wfDparam_iff {c : Config} :
    wfDparam c = true ↔ ∀ desc ∈ c.regTable, desc.dparam ≠ 0 → ∃ k, (k = .digits ∨ k = .enum) ∧
      (desc.behQr = some k ∨ desc.behQw = some k ∨ desc.behRr = some k ∨ desc.behRw = some k) := by
  simp only [wfDparam, List.all_eq_true, List.any_eq_true, Bool.or_eq_true, beq_iff_eq, mem_behavioursOf, and_comm]
  exact forall₂_congr fun _ _ => or_iff_not_imp_left

/-- WF-STATUS-UNIQ. -/
theorem wfStatusUniq_iff {c : Config} :
    wfStatusUniq c = true ↔
      c.regTable.Pairwise fun x y => ∀ f, ¬(x.statusField = some f ∧ y.statusField = some f) := by
  simp only [wfStatusUniq, decide_eq_true_eq, List.Nodup, List.pairwise_filterMap]
  refine List.Pairwise.iff fun x y => ⟨fun h f ⟨hx, hy⟩ => h f hx f hy rfl, ?_⟩
  rintro h f hx g hy rfl
  exact h f ⟨hx, hy⟩

/-! ### The legal configurations -/

/-- The executable check accepts exactly the legal configurations (R8, R9, R98). -/
theorem configOk_iff {c : Config} : configOk c = true ↔ LegalConfig c := by
  simp only [configOk, Bool.and_eq_true, and_assoc, wfRange, wfStatus, wfRoundTrip, List.all_eq_true, wfCap_iff,
    wfDiscriminators_iff, wfScales_iff, wfSizes_iff, wfRegId_iff, wfUniq_iff, wfDparam_iff, rangeOk_iff, statusOk_iff,
    wfStatusUniq_iff, roundTripOk_iff]
  constructor
  · rintro ⟨hlo, hhi, hdir, hop, hfreq, hyear, hgcap, hnst, hid, huniq, hlen, hdp, hrange, hst, hstu, hrt⟩
    exact ⟨⟨hlo, hhi⟩, hdir, hop, hfreq, hyear, hgcap, hnst, hid, huniq, (wfLen_iff hlo).mp hlen, hdp, hrange, hst,
      hstu, hrt⟩
  · rintro ⟨⟨hlo, hhi⟩, hdir, hop, hfreq, hyear, hgcap, hnst, hid, huniq, hlen, hdp, hrange, hst, hstu, hrt⟩
    exact ⟨hlo, hhi, hdir, hop, hfreq, hyear, hgcap, hnst, hid, huniq, (wfLen_iff hlo).mpr hlen, hdp, hrange, hst,
      hstu, hrt⟩

/-- Creation from a legal configuration gives its reset state (R310). -/
theorem create_of_legal {c : Config} (h : LegalConfig c) : State.create c = .next (State.initial c) :=
  if_pos (configOk_iff.mpr h)

/-- The model refuses every other configuration (R98). -/
theorem create_of_not_legal {c : Config} (h : ¬ LegalConfig c) : State.create c = .refused .illegalConfig :=
  if_neg (mt configOk_iff.mp h)

/-- The reference configuration passes every check (R8, D29). -/
theorem legalConfig_reference : LegalConfig Config.reference :=
  configOk_iff.mp (by decide)

/-- Settles O58: the executable check is the conjunction of R8 and R98 by `configOk_iff`, and creation branches on it. -/
theorem legalConfigurations : Obligations.LegalConfigurations :=
  ⟨fun _ => configOk_iff, fun _ => create_of_legal, fun _ => create_of_not_legal, legalConfig_reference⟩

end Sys2Proof.Machine
end

section
/-! SUPPORT. The command port (O1): a step with a command at the head of `inputs` runs the instruction it decodes to. -/

namespace Sys2Proof.Machine

/-- With a command at the head of the host's events, a step runs that command (R6). -/
theorem step_of_command {s : State} {c : Command} {rest : List HostEvent} (h : s.inputs = .command c :: rest) :
    step s = runCommand exec c s := by
  simp only [step, h]

/-- A command that decodes to an instruction runs as it (R70, R72). -/
theorem runCommand_of_decode {run : Instr → State → Host.Outcome State Fault Refusal} {c : Command} {s : State}
    {i : Instr} (h : decode c = .instr i) : runCommand run c s = run i s := by
  simp only [runCommand, h]

/-- A step with a command that decodes to an instruction at the head of the host's events is that instruction. -/
theorem step_of_decode {s : State} {c : Command} {rest : List HostEvent} {i : Instr}
    (hin : s.inputs = .command c :: rest) (hdec : decode c = .instr i) : step s = exec i s :=
  (step_of_command hin).trans (runCommand_of_decode hdec)

/-- The instruction of an opcode-table word is what its command decodes to, with ARG empty and VALUE zero. -/
theorem decode_of_decodeTableWord {nbits w : Nat} {i : Instr} (h : decodeTableWord nbits w = some i) :
    decode ⟨BitVec.ofNat 16 w, [], 0⟩ = .instr i := by
  unfold decodeTableWord at h
  split at h
  · split at h
    · rename_i j hj
      cases h
      exact hj
    · cases h
  · cases h

/-- Settles O1: both clauses are `step_of_decode`, the second at the command `withFetchWord` places (log entry 1). -/
theorem stepRunsDecodedCommand : Obligations.StepRunsDecodedCommand :=
  ⟨fun _ _ _ _ hin hdec => step_of_decode hin hdec,
    fun _ _ _ hw => step_of_decode rfl (decode_of_decodeTableWord hw)⟩

end Sys2Proof.Machine
end

section
/-! SUPPORT. What one step can do (R6), for every invariant of the machine: idle, an external reset, or what a command
performs. Then the elements each command leaves as they are (R38; O56). -/

namespace Sys2Proof.Machine

/-- What idling, an external reset and everything a command performs keep, every step keeps (R6, R74, R292, R310). -/
theorem step_keeps {P : State → Prop} {s t : State} (hs : P s) (hreset : P (takeReset s))
    (hrun : ∀ i u, Performs i s u → P u) (h : step s = .next t) : P t := by
  unfold step at h
  split at h
  · cases h
    exact hs
  · cases h
    exact hreset
  · unfold runCommand at h
    split at h
    · exact hrun _ _ (exec_next h)
    · cases h
      exact hrun .nop _ (.returnsOnly _)
    · cases h

/-! ### What a command leaves as it is -/

theorem processCmd_eq (nc : Bool) : processCmd nc = .process ∨ processCmd nc = .processNc := by
  cases nc
  · exact .inl rfl
  · exact .inr rfl

theorem submitCmd_eq (op : RegOp) (arg : Bytes) (v : Value) :
    submitCmd op arg v = .submitRead arg v ∨ submitCmd op arg v = .submitWrite arg v := by
  cases op
  · exact .inl rfl
  · exact .inr rfl

/-- PROCESS leaves every element alone that R38 does not name it for. -/
@[simp] theorem processStep_leaves (nc : Bool) (b : Bytes) (s : State) :
    (processStep nc b s).cfg = s.cfg ∧ (processStep nc b s).hpAddr = s.hpAddr ∧
    (processStep nc b s).hpAddrValid = s.hpAddrValid ∧ (processStep nc b s).ctrlAddr = s.ctrlAddr ∧
    (processStep nc b s).ctrlAddrValid = s.ctrlAddrValid ∧ (processStep nc b s).grabEn = s.grabEn ∧
    (processStep nc b s).grabCap = s.grabCap ∧ (processStep nc b s).tx = s.tx := by
  obtain ⟨-, h⟩ | ⟨-, -, h⟩ | ⟨-, -, -, h⟩ | ⟨-, -, -, -, h⟩ | ⟨-, -, -, -, h⟩ := processStep_cases nc b s
  all_goals rw [h]; simp

section
variable {i : Instr} {s t : State} (h : Performs i s t)
include h

/-- No command writes the configuration (R37). -/
theorem Performs.cfg_eq : t.cfg = s.cfg := by
  cases h with
  | process nc b => simp
  | _ => rfl

theorem Performs.buffer_eq (happend : ∀ a, i ≠ .append a) (hconsume : ∀ n, i ≠ .consume n) (hreset : i ≠ .resetBuf)
    (hprocess : i ≠ .process) (hprocessNc : i ≠ .processNc) : t.bufStore = s.bufStore ∧ t.fill = s.fill := by
  cases h with
  | append arg => exact absurd rfl (happend arg)
  | consume n => exact absurd rfl (hconsume n)
  | resetBuf => exact absurd rfl hreset
  | process nc => exact ((processCmd_eq nc).elim hprocess hprocessNc).elim
  | _ => exact ⟨rfl, rfl⟩

theorem Performs.expLen_eq (hconsume : ∀ n, i ≠ .consume n) (hreset : i ≠ .resetBuf) (hprocess : i ≠ .process)
    (hprocessNc : i ≠ .processNc) : t.expLen = s.expLen := by
  cases h with
  | consume n => exact absurd rfl (hconsume n)
  | resetBuf => exact absurd rfl hreset
  | process nc => exact ((processCmd_eq nc).elim hprocess hprocessNc).elim
  | _ => rfl

theorem Performs.hpAddr_eq (hset : ∀ a, i ≠ .setAddrHp a) : t.hpAddr = s.hpAddr ∧ t.hpAddrValid = s.hpAddrValid := by
  cases h with
  | setAddrHp arg => exact absurd rfl (hset arg)
  | process => simp
  | _ => exact ⟨rfl, rfl⟩

theorem Performs.ctrlAddr_eq (hset : ∀ a, i ≠ .setAddrCtrl a) :
    t.ctrlAddr = s.ctrlAddr ∧ t.ctrlAddrValid = s.ctrlAddrValid := by
  cases h with
  | setAddrCtrl arg => exact absurd rfl (hset arg)
  | process => simp
  | _ => exact ⟨rfl, rfl⟩

theorem Performs.grabEn_eq (hoff : i ≠ .setGrabOff) (hon : ∀ v, i ≠ .setGrabOn v) : t.grabEn = s.grabEn := by
  cases h with
  | setGrabOff => exact absurd rfl hoff
  | setGrabOn v => exact absurd rfl (hon v)
  | process => simp
  | _ => rfl

theorem Performs.grabCap_eq (hon : ∀ v, i ≠ .setGrabOn v) : t.grabCap = s.grabCap := by
  cases h with
  | setGrabOn v => exact absurd rfl (hon v)
  | process => simp
  | _ => rfl

theorem Performs.grab_eq (hprocess : i ≠ .process) (hprocessNc : i ≠ .processNc) (hoff : i ≠ .setGrabOff)
    (hon : ∀ v, i ≠ .setGrabOn v) : t.grabStore = s.grabStore ∧ t.grabLen = s.grabLen := by
  cases h with
  | setGrabOff => exact absurd rfl hoff
  | setGrabOn v => exact absurd rfl (hon v)
  | process nc => exact ((processCmd_eq nc).elim hprocess hprocessNc).elim
  | _ => exact ⟨rfl, rfl⟩

/-- SET_GRAB leaves no byte below the new GRAB_LEN, which is 0 (R257, R258; log entry 5). -/
theorem Performs.grabbed_eq (hprocess : i ≠ .process) (hprocessNc : i ≠ .processNc) (x : Nat) (hx : x < t.grabLen) :
    Memory.read t.grabStore x = Memory.read s.grabStore x := by
  cases h with
  | setGrabOff => exact absurd hx (Nat.not_lt_zero x)
  | setGrabOn v => exact absurd hx (Nat.not_lt_zero x)
  | process nc => exact ((processCmd_eq nc).elim hprocess hprocessNc).elim
  | _ => rfl

theorem Performs.status_eq (hprocess : i ≠ .process) (hprocessNc : i ≠ .processNc) : t.status = s.status := by
  cases h with
  | process nc => exact ((processCmd_eq nc).elim hprocess hprocessNc).elim
  | _ => rfl

theorem Performs.tx_eq (hread : ∀ a v, i ≠ .submitRead a v) (hwrite : ∀ a v, i ≠ .submitWrite a v) : t.tx = s.tx := by
  cases h with
  | submit op arg v => exact ((submitCmd_eq op arg v).elim (hread arg v) (hwrite arg v)).elim
  | process => simp
  | _ => rfl

/-- Only SUBMIT emits, and one frame at most (R36, R242). -/
theorem Performs.tx_append : ∃ added, t.tx = s.tx ++ added ∧ added.length ≤ 1 := by
  cases h with
  | submit op arg v p => exact ⟨[outgoingFrame s op (arg.take 9) p.payload], rfl, le_rfl⟩
  | process => exact ⟨[], by simp⟩
  | _ => exact ⟨[], (List.append_nil _).symm, Nat.zero_le 1⟩

end

/-- Settles O56: `exec_next` says what a command performs, and each element has its lemma over those cases. -/
theorem onlyOwnersWrite : Obligations.OnlyOwnersWrite := by
  intro i s t h
  have p := exec_next h
  exact ⟨p.cfg_eq, p.buffer_eq, p.expLen_eq, p.hpAddr_eq, p.ctrlAddr_eq, p.grabEn_eq, p.grabCap_eq, p.grab_eq,
    p.grabbed_eq, p.status_eq, p.tx_eq, p.tx_append⟩

end Sys2Proof.Machine
end

section
/-! SUPPORT. The invariant `State.Inv` (O52, O51, O50): the reset state has it, each shared operation of the
commands keeps it, and so does everything a command performs (R24 to R35). -/

namespace Sys2Proof.Machine

/-! ### The indices a store lists -/

/-- Bytes written behind the first `n` extend the run of listed indices (R111). -/
theorem Memory.keys_writeBytes_end {m : Memory} {n : Nat} (h : m.map Prod.fst = List.range n) (bs : Bytes) :
    (Memory.writeBytes m n bs).map Prod.fst = List.range (n + bs.length) := by
  obtain ⟨b, rfl, rfl⟩ := Memory.eq_ofBytes (h.trans List.range_eq_range')
  have hend := Memory.writeBytes_ofBytes_end 0 b bs
  rw [Nat.zero_add] at hend
  rw [hend, Memory.ofBytes_keys_range, List.length_append]

/-- Removing the first bytes leaves the rest listed from index 0 (R112, R153). -/
theorem Memory.keys_shiftDown {m : Memory} {n : Nat} (h : m.map Prod.fst = List.range n) (k : Nat) :
    (Memory.shiftDown k m).map Prod.fst = List.range (n - k) := by
  obtain ⟨b, rfl, rfl⟩ := Memory.eq_ofBytes (h.trans List.range_eq_range')
  rw [Memory.shiftDown_ofBytes, Memory.ofBytes_keys_range, List.length_drop]

/-! ### Reset -/

/-- The reset state of a legal configuration (R28, R38). -/
theorem State.initial_inv {c : Config} (hc : configOk c = true) : (State.initial c).Inv where
  config := hc
  bufKeys := rfl
  fillLe := Nat.zero_le _
  expLen := fun _ h => nomatch h
  grabKeys := rfl
  grabLenLe := Nat.le_refl _
  grabCapLe := Nat.zero_le _
  statusLen := List.length_replicate

/-- Settles O50, by computation but for the status file, which is `nstatus` times `none`. -/
theorem resetValues : Obligations.ResetValues := by
  intro c
  refine ⟨rfl, rfl, rfl, rfl, rfl, rfl, rfl, ⟨List.length_replicate, fun f hf => ?_⟩, rfl, rfl, fun _ => ⟨rfl, rfl⟩⟩
  exact List.getElem?_replicate_of_lt hf

/-! ### What the shared operations keep -/

section
variable {s : State} (h : s.Inv)
include h

theorem State.Inv.takeReset : (takeReset s).Inv :=
  { State.initial_inv h.config with }

theorem State.Inv.result (r : Result) : (s.result r).Inv :=
  { h with }

theorem State.Inv.emitTx (frame : Bytes) : (s.emitTx frame).Inv :=
  { h with }

/-- Bytes that fit go behind the buffered ones, so the length byte EXPLEN mirrors stays (R28, R111). -/
theorem State.Inv.appendBytes {bs : Bytes} (hfit : s.fill + bs.length ≤ s.cfg.cap) : (s.appendBytes bs).Inv :=
  { h with
    bufKeys := Memory.keys_writeBytes_end h.bufKeys bs
    fillLe := hfit
    expLen := fun len hlen => by
      obtain ⟨hfill, ⟨p, hp, hl⟩, hcap⟩ := h.expLen len hlen
      have hbelow : ¬(s.fill ≤ 9 ∧ 9 < s.fill + bs.length) := fun hle => absurd (hfill.trans hle.1) (by decide)
      refine ⟨Nat.le_add_right_of_le hfill, ⟨p, ?_, hl⟩, hcap⟩
      rw [State.appendBytes_bufStore, Memory.read_writeBytes, if_neg hbelow, hp] }

theorem State.Inv.removeFront (n : Nat) : (s.removeFront n).Inv :=
  { h with
    bufKeys := Memory.keys_shiftDown h.bufKeys n
    fillLe := (Nat.sub_le s.fill n).trans h.fillLe
    expLen := fun _ hlen => nomatch hlen }

theorem State.Inv.clearBuffer : ({ s with bufStore := [], fill := 0, expLen := none } : State).Inv :=
  { h with
    bufKeys := rfl
    fillLe := Nat.zero_le _
    expLen := fun _ hlen => nomatch hlen }

/-- EXPLEN set from a buffered header mirrors its length byte (R28, R144, R153). -/
theorem State.Inv.setExpLen {b : Bytes} (hb : s.buf = some b) (hhdr : hdrLen ≤ b.length)
    (hcap : frameLen b ≤ s.cfg.cap) : ({ s with expLen := some (frameLen b) } : State).Inv :=
  { h with
    expLen := fun len hlen => by
      cases hlen
      have hfill : hdrLen ≤ s.fill := State.buf_length hb ▸ hhdr
      exact ⟨hfill, ⟨byteAt b 9, State.buf_read hb (Nat.lt_of_lt_of_le (by decide) hfill), rfl⟩, hcap⟩ }

/-- A grab of no more than the buffer holds lists exactly the bytes below its length (R33, R34, R154). -/
theorem State.Inv.grab {m : Nat} {b : Bytes} (hm : m ≤ b.length) : (s.grab m b).Inv := by
  unfold State.grab
  split
  · have hlen : (b.take (min m s.grabCap)).length = min m s.grabCap :=
      List.length_take_of_le ((Nat.min_le_left _ _).trans hm)
    exact { h with
      grabKeys := (Memory.ofBytes_keys_range _).trans (congrArg List.range hlen)
      grabLenLe := Nat.min_le_right _ _ }
  · exact h

/-- SET_GRAB leaves an empty grab under a capacity the store has (R32, R257, R258). -/
theorem State.Inv.setGrab (en : Bool) {cap : Nat} (hcap : cap ≤ s.cfg.gcapMax) :
    ({ s with grabEn := en, grabCap := cap, grabStore := [], grabLen := 0 } : State).Inv :=
  { h with
    grabKeys := rfl
    grabLenLe := Nat.zero_le _
    grabCapLe := hcap }

theorem State.Inv.project (w : Option (Nat × StatusEntry)) : (s.project w).Inv := by
  cases w with
  | none => exact h
  | some w => exact { h with statusLen := List.length_set.trans h.statusLen }

theorem State.Inv.finishFrame {b : Bytes} (nc : Bool) (hb : s.buf = some b) (hhdr : hdrLen ≤ b.length)
    (hcap : frameLen b ≤ s.cfg.cap) : (finishFrame nc (frameLen b) s).Inv := by
  cases nc with
  | false => exact h.removeFront _
  | true => exact h.setExpLen hb hhdr hcap

theorem State.Inv.processStep {b : Bytes} (nc : Bool) (hb : s.buf = some b) : (processStep nc b s).Inv := by
  obtain ⟨-, e⟩ | ⟨hhdr, -, e⟩ | ⟨hhdr, hcap, -, e⟩ | ⟨-, -, hlen, -, e⟩ | ⟨hhdr, hcap, hlen, -, e⟩ :=
    processStep_cases nc b s
  all_goals rw [e]
  · exact h.result _
  · exact ((h.grab hhdr).removeFront _).result _
  · exact (h.setExpLen hb hhdr hcap).result _
  · exact ((h.grab hlen).removeFront _).result _
  · exact (((h.grab hlen).project _).finishFrame nc (by simpa using hb) hhdr (by simpa using hcap)).result _

/-- Whatever a command performs keeps the invariant. -/
theorem State.Inv.performs {i : Instr} {t : State} (hp : Performs i s t) : t.Inv := by
  cases hp with
  | returnsOnly r => exact h.result r
  | append arg =>
    refine (h.appendBytes ?_).result _
    have := h.fillLe
    rw [List.length_take]
    omega
  | consume n => exact (h.removeFront _).result _
  | resetBuf => exact h.clearBuffer.result _
  | process nc b hb => exact h.processStep nc hb
  | submit => exact (h.emitTx _).result _
  | setAddrHp => exact { h with }
  | setAddrCtrl => exact { h with }
  | setGrabOff => exact (h.setGrab false h.grabCapLe).result _
  | setGrabOn v hv => exact (h.setGrab true hv).result _

end

/-- Settles O52: idle is trivial, an external reset ends in the reset state's elements, and every command keeps the
invariant operation by operation (`State.Inv.performs`). -/
theorem stepKeepsInvariant : Obligations.StepKeepsInvariant :=
  fun _ _ hs => step_keeps hs hs.takeReset fun _ _ => hs.performs

end Sys2Proof.Machine
end

section
/-! SUPPORT. What the decode kernels answer is a legal value of their kind (R93, R195), which the status projection
writes (O53). -/

namespace Sys2Proof.Machine

/-! ### The sub-fields of a packed VALUE word (R93) -/

@[simp] theorem valueHigh_packFields (y : Nat) (b1 b0 : Byte) : valueHigh (packFields y b1 b0) = y % 65536 := by
  have h : (packFields y b1 b0).extractLsb' 16 16 = BitVec.ofNat 16 y := BitVec.extractLsb'_append_eq_left
  rw [valueHigh, h, BitVec.toNat_ofNat]

@[simp] theorem valueByte1_packFields (y : Nat) (b1 b0 : Byte) : valueByte1 (packFields y b1 b0) = b1 := by
  unfold valueByte1 packFields
  rw [BitVec.extractLsb'_append_eq_of_add_le (by decide)]
  exact BitVec.extractLsb'_append_eq_left

@[simp] theorem valueByte0_packFields (y : Nat) (b1 b0 : Byte) : valueByte0 (packFields y b1 b0) = b0 := by
  unfold valueByte0 packFields
  rw [BitVec.extractLsb'_append_eq_of_add_le (by decide)]
  exact BitVec.extractLsb'_append_eq_right

/-! ### Extended numbers are in their range (R10) -/

theorem sval32_sext16 (raw : Nat) : -32768 ≤ sval32 (sext16 raw) ∧ sval32 (sext16 raw) ≤ 32767 := by
  have e : sval32 (sext16 raw) = (BitVec.ofNat 16 raw).toInt := BitVec.toInt_signExtend_of_le (by decide)
  have hlo := (BitVec.ofNat 16 raw).le_toInt
  have hhi := (BitVec.ofNat 16 raw).toInt_lt
  omega

theorem sval32_sext8 (b : Byte) : -128 ≤ sval32 (sext8 b) ∧ sval32 (sext8 b) ≤ 127 := by
  have e : sval32 (sext8 b) = b.toInt := BitVec.toInt_signExtend_of_le (by decide)
  have hlo := b.le_toInt
  have hhi := b.toInt_lt
  omega

theorem uval_zext16 (raw : Nat) : uval (zext16 raw) ≤ 65535 := by
  have e : uval (zext16 raw) = (BitVec.ofNat 16 raw).toNat := BitVec.toNat_setWidth_of_le (by decide)
  have hhi := (BitVec.ofNat 16 raw).isLt
  omega

theorem uval_zext8 (b : Byte) : uval (zext8 b) = b.toNat :=
  BitVec.toNat_setWidth_of_le (by decide)

/-! ### What the kernels answer -/

theorem kDecodeUpTo_ok {most : Nat} {p : Bytes} {v : Value} {bs : Bytes} (h : kDecodeUpTo most p = .ok v bs) :
    uval v ≤ most ∧ bs = [] := by
  unfold kDecodeUpTo at h
  split at h
  · split at h
    · cases h
    · rename_i b hb
      cases h
      exact ⟨(uval_zext8 b).trans_le (Nat.le_of_not_lt hb), rfl⟩
  · cases h

/-- FREQ16 and GENERIC16 have one kernel (R185, R193). -/
theorem kDecodeFreq16_ok {o : WordOrder} {p : Bytes} {v : Value} {bs : Bytes} (h : kDecodeFreq16 o p = .ok v bs) :
    uval v ≤ 65535 ∧ bs = [] := by
  unfold kDecodeFreq16 at h
  split at h
  · cases h
    exact ⟨uval_zext16 _, rfl⟩
  · cases h

/-- A decode's answer is a legal value of its kind (R93, R195). YEAR_BASE leaves room for the offset byte (R8). -/
theorem decodeKernel_legal {c : Config} {k : Kind} {d : Byte} {p : Bytes} {v : Value} {bs : Bytes}
    (hyear : c.yearBase ≤ 65535 - 255) (h : decodeKernel c k d p = .ok v bs) : legalValue c k d v bs = true := by
  cases k with
  | temp16 =>
    simp only [decodeKernel, kDecodeTemp16] at h
    split at h
    · cases h
      simpa [legalValue] using sval32_sext16 _
    · cases h
  | temp8 =>
    simp only [decodeKernel, kDecodeTemp8] at h
    split at h
    · cases h
      simpa [legalValue] using sval32_sext8 _
    · cases h
  | freq16 => simpa [legalValue] using kDecodeFreq16_ok h
  | percent => simpa [legalValue] using kDecodeUpTo_ok h
  | timeHm =>
    simp only [decodeKernel, kDecodeTimeHm] at h
    split at h
    · split at h
      · cases h
      · rename_i hr
        cases h
        simpa [legalValue] using hr
    · cases h
  | dateDmy =>
    simp only [decodeKernel, kDecodeDateDmy] at h
    split at h
    · split at h
      · cases h
      · rename_i _ _ y _
        cases h
        have hy : (c.yearBase + y.toNat) % 65536 = c.yearBase + y.toNat := Nat.mod_eq_of_lt (by omega)
        simp only [legalValue, valueHigh_packFields, valueByte1_packFields, valueByte0_packFields, hy,
          List.isEmpty_nil, Bool.and_true, Bool.and_eq_true, decide_eq_true_eq]
        omega
    · cases h
  | flag => simpa [legalValue] using kDecodeUpTo_ok h
  | enum => simpa [legalValue] using kDecodeUpTo_ok h
  | digits =>
    simp only [decodeKernel, kDecodeDigits] at h
    split at h
    · rename_i hl
      cases h
      simpa [legalValue] using hl
    · cases h
  | alarmClear =>
    simp only [decodeKernel, kDecodeAlarmClear] at h
    split at h
    · cases h
      rfl
    · cases h
  | generic16 => simpa [legalValue] using kDecodeFreq16_ok h
  | empty =>
    simp only [decodeKernel, kDecodeEmpty] at h
    split at h
    · cases h
      rfl
    · cases h

end Sys2Proof.Machine
end

section
/-! SUPPORT. The status file (O53, O51): only a decoded reply is projected, and it is legal for the register that feeds
its field (R93, R98 WF-STATUS, R152). -/

namespace Sys2Proof.Machine

/-- `e` is what a status register that feeds the field `f` can hold (R35, R93, R152). -/
def FeedsField (c : Config) (f : Nat) (e : StatusEntry) : Prop :=
  ∃ desc ∈ c.regTable, desc.statusField = some f ∧ desc.behRr = some e.kind ∧
    legalValue c e.kind desc.dparam e.value e.bytes = true

theorem State.statusLegal_iff {s : State} :
    s.StatusLegal ↔ ∀ f e, s.status[f]? = some (some e) → FeedsField s.cfg f e :=
  Iff.rfl

theorem State.StatusLegal.congr {s t : State} (h : s.StatusLegal) (hcfg : t.cfg = s.cfg) (hst : t.status = s.status) :
    t.StatusLegal := by
  rw [State.statusLegal_iff, hcfg, hst]
  exact h

/-- A status file in which no field is written. -/
theorem State.statusLegal_of_unset {s : State} {n : Nat} (h : s.status = List.replicate n none) : s.StatusLegal := by
  intro f e he
  rw [h, List.getElem?_replicate] at he
  split at he <;> cases he

/-- The projector keeps the file legal where what it writes is legal for its field (R152). -/
theorem State.StatusLegal.project {s : State} (h : s.StatusLegal) {w : Option (Nat × StatusEntry)}
    (hw : ∀ f e, w = some (f, e) → FeedsField s.cfg f e) : (s.project w).StatusLegal := by
  cases w with
  | none => exact h
  | some w =>
    obtain ⟨g, new⟩ := w
    intro f e he
    rw [State.project_some_status, List.getElem?_set] at he
    split at he
    · rename_i hgf
      subst hgf
      split at he
      · cases he
        exact hw g _ rfl
      · cases he
    · exact h f e he

/-- The decode dispatch writes only for a reply, into its register's status field (R152). -/
theorem dispatchDecode_write {c : Config} {desc : Descriptor} {dir : WireDir} {k : Kind} {fr : Bytes} {f : Nat}
    {e : StatusEntry} (h : (dispatchDecode c desc dir k fr).write = some (f, e)) :
    dir = .reply ∧ desc.statusField = some f ∧ e.kind = k ∧
      decodeKernel c k desc.dparam (framePayload fr) = .ok e.value e.bytes := by
  obtain ⟨_, -, hd⟩ | ⟨v, bs, hk, hd⟩ := dispatchDecode_cases c desc dir k fr
  · rw [hd] at h
    cases h
  · rw [hd] at h
    obtain ⟨g, hg, he⟩ := Option.map_eq_some_iff.mp h
    cases he
    cases dir with
    | query => cases hg
    | reply => exact ⟨rfl, hg, rfl, hk⟩

/-- What the dispatch writes is legal for its field: a status register has no reply-write behaviour (WF-STATUS), so the
reply was to a read, and its kind is the reply-read behaviour (R97, R98, R152). -/
theorem dispatchFrame_write_feeds {c : Config} (hc : LegalConfig c) {fr : Bytes} {f : Nat} {e : StatusEntry}
    (h : (dispatchFrame c fr).write = some (f, e)) : FeedsField c f e := by
  obtain ⟨-, hd⟩ | ⟨dir, op, -, -, ⟨-, hd⟩ | ⟨desc, hfind, ⟨-, hd⟩ | ⟨k, hbeh, hd⟩⟩⟩ := dispatchFrame_cases c fr
  · rw [hd] at h
    cases h
  · rw [hd] at h
    cases h
  · rw [hd] at h
    cases h
  · rw [hd] at h
    obtain ⟨rfl, hfield, rfl, hk⟩ := dispatchDecode_write h
    obtain ⟨hmem, -⟩ := findIn_some hfind
    obtain ⟨-, -, -, -, hrw⟩ := hc.status desc hmem f hfield
    cases op with
    | read => exact ⟨desc, hmem, hfield, hbeh, decodeKernel_legal hc.yearBase hk⟩
    | write => exact absurd (hrw.symm.trans hbeh) nofun

theorem State.StatusLegal.processStep {s : State} (h : s.StatusLegal) (hc : LegalConfig s.cfg) (nc : Bool) (b : Bytes) :
    (processStep nc b s).StatusLegal := by
  obtain ⟨-, e⟩ | ⟨-, -, e⟩ | ⟨-, -, -, e⟩ | ⟨-, -, -, -, e⟩ | ⟨-, -, -, -, e⟩ := processStep_cases nc b s
  all_goals rw [e]
  · exact h.congr rfl rfl
  · exact h.congr (by simp) (by simp)
  · exact h.congr rfl rfl
  · exact h.congr (by simp) (by simp)
  · have hgrab : (s.grab (frameLen b) b).StatusLegal := h.congr (by simp) (by simp)
    have hwrite : ∀ f e, (dispatchFrame s.cfg (b.take (frameLen b))).write = some (f, e) →
        FeedsField (s.grab (frameLen b) b).cfg f e := fun f e hw => by
      rw [State.grab_cfg]
      exact dispatchFrame_write_feeds hc hw
    exact (hgrab.project hwrite).congr (by simp) (by simp)

/-- Whatever a command performs keeps the status file legal. -/
theorem State.StatusLegal.performs {s t : State} {i : Instr} (h : s.StatusLegal) (hc : LegalConfig s.cfg)
    (hp : Performs i s t) : t.StatusLegal := by
  cases hp with
  | process nc b => exact h.processStep hc nc b
  | _ => exact h

/-- Settles O53: only PROCESS writes the status file, and it projects only what `dispatchFrame_write_feeds` allows; an
external reset leaves no field written. -/
theorem stepKeepsStatusLegal : Obligations.StepKeepsStatusLegal :=
  fun s _ hc hs => step_keeps hs (State.statusLegal_of_unset (takeReset_status s)) fun _ _ =>
    hs.performs (configOk_iff.mp hc)

/-- Settles O51: at reset no status field is written and TX is empty; the reference configuration is legal (R8, D29). -/
theorem resetSatisfiesInvariants : Obligations.ResetSatisfiesInvariants :=
  ⟨fun c hc => ⟨State.initial_inv hc, State.statusLegal_of_unset (State.initial_status c), fun _ hf => nomatch hf⟩,
    configOk_iff.mpr legalConfig_reference⟩

end Sys2Proof.Machine
end

section
/-! SUPPORT. The command words of R78 (O4, O5): each is its three fields, and the decoder takes a word by its fields
(R71, R72). -/

namespace Sys2Proof

theorem toNat_cmdOf (opc sel : BitVec 4) (imm : Byte) :
    (cmdOf opc sel imm).toNat = (opc ++ sel).toNat * 256 + imm.toNat := by
  rw [cmdOf, BitVec.toNat_append, ← Nat.shiftLeft_add_eq_or_of_lt imm.isLt, Nat.shiftLeft_eq]

/-- The words of a row with an 8-bit immediate, as R78 writes them: the row's own word plus the immediate. -/
theorem add_imm_eq_cmdOf (opc sel : BitVec 4) (imm : Byte) :
    cmdOf opc sel 0 + imm.setWidth 16 = cmdOf opc sel imm := by
  have himm : (imm.setWidth 16).toNat = imm.toNat := BitVec.toNat_setWidth_of_le (by decide)
  have hzero : (0 : Byte).toNat = 0 := rfl
  have hlt := (cmdOf opc sel imm).isLt
  rw [toNat_cmdOf] at hlt
  apply BitVec.eq_of_toNat_eq
  rw [BitVec.toNat_add, himm, toNat_cmdOf, toNat_cmdOf, hzero, Nat.add_zero, Nat.mod_eq_of_lt hlt]

/-- The decoder on a word given as R78 writes it, its row's word plus an 8-bit immediate. -/
theorem decode_add_imm (opc sel : BitVec 4) (imm : Byte) {arg : Bytes} (value : Value) (h : arg.length ≤ maxArgLen) :
    decode ⟨cmdOf opc sel 0 + imm.setWidth 16, arg, value⟩ = decodeFields opc.toNat sel.toNat imm arg value := by
  rw [add_imm_eq_cmdOf]
  exact decode_cmdOf opc sel imm arg value h

/-- Settles O5: each word's fields select its line of the opcode map, which names the channels (R71, R72). -/
theorem commandWordsDecode : Obligations.CommandWordsDecode := by
  intro a v h
  have word (opc sel : BitVec 4) (imm : Byte) := decode_cmdOf opc sel imm a v h
  have openWord (opc sel : BitVec 4) (imm : Byte) := decode_add_imm opc sel imm v h
  refine ⟨?buffer, ?decodes, ?encodes, ?host⟩
  case buffer =>
    exact ⟨word 0x0 0x0 0, word 0x1 0x0 0, word 0x2 0x0 0, word 0x2 0x0 1, openWord 0x3 0x0, word 0x4 0x0 0,
      word 0x5 0x0 0⟩
  case decodes =>
    exact ⟨word 0x6 0x0 0, word 0x6 0x1 0, word 0x6 0x2 0, word 0x6 0x3 0, word 0x6 0x4 0, word 0x6 0x5 0,
      word 0x6 0x6 0, openWord 0x6 0x7, openWord 0x6 0x8, word 0x6 0x9 0, word 0x6 0xA 0, word 0x6 0xB 0⟩
  case encodes =>
    exact ⟨word 0x7 0x0 0, word 0x7 0x1 0, word 0x7 0x2 0, word 0x7 0x3 0, word 0x7 0x4 0, word 0x7 0x5 0,
      word 0x7 0x6 0, openWord 0x7 0x7, openWord 0x7 0x8, word 0x7 0x9 0, word 0x7 0xA 0, word 0x7 0xB 0⟩
  case host =>
    exact ⟨word 0x8 0x0 0, word 0x8 0x1 0, word 0x9 0x0 0, word 0x9 0x1 0, word 0xA 0x0 0, word 0xA 0x1 0,
      openWord 0xB 0x0, word 0xC 0x0 0, word 0xD 0x0 0⟩

/-- Settles O4: by cases on the instruction, each of whose words is written by its fields (R78), which `decode_cmdOf`
gives back to the opcode map with the operand channels kept. -/
theorem decodeOfEncode : Obligations.DecodeOfEncode := by
  intro i h
  cases i <;> exact decode_cmdOf _ _ _ _ _ h

end Sys2Proof
end

section
/-! SUPPORT. The opcode table (O3): its rows share no word, its words are exactly the words of instructions, and none of
them is a word that R74 lists (R72, R74, R283). -/

namespace Sys2Proof

open Sys2Proof.Laws

/-! ### A word of two rows -/

theorem matchesWord_iff {row : OpcodeRow} {w : CmdWord} : row.matchesWord w = true ↔ w &&& row.mask = row.pattern := by
  simp [OpcodeRow.matchesWord]

/-- A word of two rows carries both patterns on the bits that both masks fix. -/
theorem patterns_agree_of_matches {r q : OpcodeRow} {w : CmdWord} (hr : r.matchesWord w = true)
    (hq : q.matchesWord w = true) : r.pattern &&& q.mask = q.pattern &&& r.mask := by
  rw [← matchesWord_iff.mp hr, ← matchesWord_iff.mp hq, BitVec.and_assoc, BitVec.and_assoc, BitVec.and_comm r.mask]

/-- Every two rows of the table differ on a bit that both masks fix. -/
theorem opcodeTable_patterns_differ :
    opcodeTable.Pairwise fun r q => r.pattern &&& q.mask ≠ q.pattern &&& r.mask := by
  decide

/-- No word matches two rows (R74). -/
theorem opcodeTable_disjoint :
    opcodeTable.Pairwise fun r q => ∀ w : CmdWord, ¬(r.matchesWord w = true ∧ q.matchesWord w = true) :=
  opcodeTable_patterns_differ.imp fun hne _ ⟨hr, hq⟩ => hne (patterns_agree_of_matches hr hq)

/-- The row of a word is unique. -/
theorem row_unique {r q : OpcodeRow} (hr : r ∈ opcodeTable) (hq : q ∈ opcodeTable) {w : CmdWord}
    (hrw : r.matchesWord w = true) (hqw : q.matchesWord w = true) : r = q := by
  have hsymm : Std.Symm fun r q : OpcodeRow => r.pattern &&& q.mask ≠ q.pattern &&& r.mask := ⟨fun _ _ h => h.symm⟩
  by_contra hne
  exact opcodeTable_patterns_differ.forall hr hq hne (patterns_agree_of_matches hrw hqw)

/-! ### The words of a row are words of instructions -/

/-- Every word that matches the row is the word of an instruction. -/
def HoldsWords (row : OpcodeRow) : Prop := ∀ w : CmdWord, row.matchesWord w = true → ∃ i : Instr, i.word = w

/-- A row that fixes every bit holds the word of its one instruction. -/
theorem holdsWords_closed {m : String} (i : Instr) : HoldsWords ⟨m, i.word, 0xFFFF⟩ := by
  intro w hw
  have hall : w &&& 0xFFFF = w := BitVec.and_allOnes
  exact ⟨i, (matchesWord_iff.mp hw).symm.trans hall⟩

/-- A row that leaves the low byte open holds the words of its instruction with every immediate. -/
theorem holdsWords_open {m : String} {opc sel : BitVec 4} (f : Byte → Instr)
    (hf : ∀ imm, (f imm).word = cmdOf opc sel imm) : HoldsWords ⟨m, cmdOf opc sel 0, 0xFF00⟩ := by
  intro w hw
  have hfields : cmdOf (opcOf w) (selOf w) 0 = cmdOf opc sel 0 := by
    rw [← matches_openImm _ _ (immOf w), cmdOf_fields]
    exact matchesWord_iff.mp hw
  have hopc : opcOf w = opc := by simpa using congrArg opcOf hfields
  have hsel : selOf w = sel := by simpa using congrArg selOf hfields
  refine ⟨f (immOf w), ?_⟩
  rw [hf, ← hopc, ← hsel, cmdOf_fields]

theorem opcodeRowsBuffer_holdWords : ∀ row ∈ opcodeRowsBuffer, HoldsWords row := by
  simp only [opcodeRowsBuffer, List.forall_mem_cons]
  exact ⟨holdsWords_closed .nop, holdsWords_closed (.append []), holdsWords_closed .process,
    holdsWords_closed .processNc, holdsWords_open .consume fun _ => rfl, holdsWords_closed .resetBuf,
    holdsWords_closed (.crc8 [] 0), nofun⟩

theorem opcodeRowsDecode_holdWords : ∀ row ∈ opcodeRowsDecode, HoldsWords row := by
  simp only [opcodeRowsDecode, List.forall_mem_cons]
  exact ⟨holdsWords_closed (.decodeTemp16 []), holdsWords_closed (.decodeTemp8 []),
    holdsWords_closed (.decodeFreq16 []), holdsWords_closed (.decodePercent []), holdsWords_closed (.decodeTimeHm []),
    holdsWords_closed (.decodeDateDmy []), holdsWords_closed (.decodeFlag []),
    holdsWords_open (.decodeEnum · []) fun _ => rfl, holdsWords_open (.decodeDigits · []) fun _ => rfl,
    holdsWords_closed (.decodeAlarmClear []), holdsWords_closed (.decodeGeneric16 []),
    holdsWords_closed (.decodeEmpty []), nofun⟩

theorem opcodeRowsEncode_holdWords : ∀ row ∈ opcodeRowsEncode, HoldsWords row := by
  simp only [opcodeRowsEncode, List.forall_mem_cons]
  exact ⟨holdsWords_closed (.encodeTemp16 0), holdsWords_closed (.encodeTemp8 0), holdsWords_closed (.encodeFreq16 0),
    holdsWords_closed (.encodePercent 0), holdsWords_closed (.encodeTimeHm 0), holdsWords_closed (.encodeDateDmy 0),
    holdsWords_closed (.encodeFlag 0), holdsWords_open (.encodeEnum · 0) fun _ => rfl,
    holdsWords_open (.encodeDigits · []) fun _ => rfl, holdsWords_closed .encodeAlarmClear,
    holdsWords_closed (.encodeGeneric16 0), holdsWords_closed .encodeEmpty, nofun⟩

theorem opcodeRowsHost_holdWords : ∀ row ∈ opcodeRowsHost, HoldsWords row := by
  simp only [opcodeRowsHost, List.forall_mem_cons]
  exact ⟨holdsWords_closed (.submitRead [] 0), holdsWords_closed (.submitWrite [] 0),
    holdsWords_closed (.setAddrHp []), holdsWords_closed (.setAddrCtrl []), holdsWords_closed .setGrabOff,
    holdsWords_closed (.setGrabOn 0), holdsWords_open .readStatus fun _ => rfl, holdsWords_closed .readGrab,
    holdsWords_closed .readState, nofun⟩

/-- The words of the table are words of instructions. -/
theorem exists_word_of_matches {row : OpcodeRow} (hrow : row ∈ opcodeTable) {w : CmdWord}
    (hw : row.matchesWord w = true) : ∃ i : Instr, i.word = w := by
  simp only [opcodeTable, List.mem_append] at hrow
  obtain ((hbuffer | hdecode) | hencode) | hhost := hrow
  · exact opcodeRowsBuffer_holdWords row hbuffer w hw
  · exact opcodeRowsDecode_holdWords row hdecode w hw
  · exact opcodeRowsEncode_holdWords row hencode w hw
  · exact opcodeRowsHost_holdWords row hhost w hw

/-- The words of instructions are words of the table, each of its own row (R78). -/
theorem encodeRow (i : Instr) : EncodeRow.Statement i := by
  cases i with
  | nop => exact EncodeRow.nop
  | append arg => exact EncodeRow.append arg
  | process => exact EncodeRow.process
  | processNc => exact EncodeRow.processNc
  | consume n => exact EncodeRow.consume n
  | resetBuf => exact EncodeRow.resetBuf
  | crc8 arg value => exact EncodeRow.crc8 arg value
  | decodeTemp16 arg => exact EncodeRow.decodeTemp16 arg
  | decodeTemp8 arg => exact EncodeRow.decodeTemp8 arg
  | decodeFreq16 arg => exact EncodeRow.decodeFreq16 arg
  | decodePercent arg => exact EncodeRow.decodePercent arg
  | decodeTimeHm arg => exact EncodeRow.decodeTimeHm arg
  | decodeDateDmy arg => exact EncodeRow.decodeDateDmy arg
  | decodeFlag arg => exact EncodeRow.decodeFlag arg
  | decodeEnum d arg => exact EncodeRow.decodeEnum d arg
  | decodeDigits d arg => exact EncodeRow.decodeDigits d arg
  | decodeAlarmClear arg => exact EncodeRow.decodeAlarmClear arg
  | decodeGeneric16 arg => exact EncodeRow.decodeGeneric16 arg
  | decodeEmpty arg => exact EncodeRow.decodeEmpty arg
  | encodeTemp16 value => exact EncodeRow.encodeTemp16 value
  | encodeTemp8 value => exact EncodeRow.encodeTemp8 value
  | encodeFreq16 value => exact EncodeRow.encodeFreq16 value
  | encodePercent value => exact EncodeRow.encodePercent value
  | encodeTimeHm value => exact EncodeRow.encodeTimeHm value
  | encodeDateDmy value => exact EncodeRow.encodeDateDmy value
  | encodeFlag value => exact EncodeRow.encodeFlag value
  | encodeEnum d value => exact EncodeRow.encodeEnum d value
  | encodeDigits d arg => exact EncodeRow.encodeDigits d arg
  | encodeAlarmClear => exact EncodeRow.encodeAlarmClear
  | encodeGeneric16 value => exact EncodeRow.encodeGeneric16 value
  | encodeEmpty => exact EncodeRow.encodeEmpty
  | submitRead arg value => exact EncodeRow.submitRead arg value
  | submitWrite arg value => exact EncodeRow.submitWrite arg value
  | setAddrHp arg => exact EncodeRow.setAddrHp arg
  | setAddrCtrl arg => exact EncodeRow.setAddrCtrl arg
  | setGrabOff => exact EncodeRow.setGrabOff
  | setGrabOn value => exact EncodeRow.setGrabOn value
  | readStatus i => exact EncodeRow.readStatus i
  | readGrab => exact EncodeRow.readGrab
  | readState => exact EncodeRow.readState

/-! ### The decoder and the table -/

/-- The word of an instruction decodes to an instruction, whatever the channels carry (R70, R72). -/
theorem decode_word (i : Instr) {arg : Bytes} (value : Value) (h : arg.length ≤ maxArgLen) :
    ∃ j, decode ⟨i.word, arg, value⟩ = .instr j := by
  cases i <;> exact ⟨_, decode_cmdOf _ _ _ _ _ h⟩

/-- A word of a row decodes to an instruction of that row: the decoded instruction has the command's word, whose row is
unique. -/
theorem decode_of_matches {c : Command} {row : OpcodeRow} (h : c.arg.length ≤ maxArgLen) (hrow : row ∈ opcodeTable)
    (hw : row.matchesWord c.cmd = true) : ∃ i, decode c = .instr i ∧ i.mnemonic = row.mnemonic := by
  obtain ⟨i, hi⟩ := exists_word_of_matches hrow hw
  obtain ⟨j, hj⟩ := decode_word i c.value h
  rw [hi] at hj
  obtain ⟨own, hown, hname, hmatch⟩ := encodeRow j
  rw [decode_instr_word hj] at hmatch
  exact ⟨j, hj, hname ▸ congrArg OpcodeRow.mnemonic (row_unique hown hrow hmatch hw)⟩

/-- A word of no row is illegal (R74). -/
theorem decode_of_no_match {c : Command} (h : c.arg.length ≤ maxArgLen)
    (hnone : ∀ row ∈ opcodeTable, row.matchesWord c.cmd = false) : decode c = .rejected .illegalCmd := by
  obtain ⟨i, hi⟩ | hill := decode_legal_or_illegal h
  · obtain ⟨row, hrow, -, hmatch⟩ := encodeRow i
    rw [decode_instr_word hi, hnone row hrow] at hmatch
    cases hmatch
  · exact hill

/-- The words that R74 lists as illegal, by their fields. -/
def ListedIllegal (cmd : CmdWord) : Prop :=
  opcOf cmd = 0xE ∨ opcOf cmd = 0xF ∨
    (opcOf cmd ∈ [0x0, 0x1, 0x2, 0x3, 0x4, 0x5, 0xB, 0xC, 0xD] ∧ selOf cmd ≠ 0) ∨
    (opcOf cmd ∈ [0x0, 0x1, 0x4, 0x5, 0x8, 0x9, 0xA, 0xC, 0xD] ∧ immOf cmd ≠ 0) ∨
    (opcOf cmd ∈ [0x6, 0x7] ∧ selOf cmd ≠ 0x7 ∧ selOf cmd ≠ 0x8 ∧ immOf cmd ≠ 0) ∨
    (opcOf cmd ∈ [0x6, 0x7] ∧ 0xC ≤ (selOf cmd).toNat) ∨
    (opcOf cmd ∈ [0x8, 0x9, 0xA] ∧ 2 ≤ (selOf cmd).toNat) ∨
    (opcOf cmd = 0x2 ∧ 2 ≤ (immOf cmd).toNat)

/-- No instruction's word is listed (R74, R78). -/
theorem not_listedIllegal_word (i : Instr) : ¬ ListedIllegal i.word := by
  cases i <;> simp [ListedIllegal, Instr.word]

end Sys2Proof

namespace Sys2Proof.Machine

/-- A command word of no row ends with ILLEGAL_CMD, its record the only change (R74, R283). -/
theorem step_of_illegal {s : State} {c : Command} {rest : List HostEvent} (hin : s.inputs = .command c :: rest)
    (hdec : decode c = .rejected .illegalCmd) :
    step s = .next { s with inputs := rest, results := s.results ++ [{ status := .illegalCmd }] } := by
  rw [step_of_command hin]
  simp [runCommand, hdec, State.raise, State.result, hin]

/-- Settles O3: rows are disjoint by their patterns, and the words of the table are exactly the words of instructions,
which decode and are not listed in R74. -/
theorem unmatchedWordIsIllegal : Obligations.UnmatchedWordIsIllegal := by
  refine ⟨opcodeTable_disjoint, fun _ _ h hrow hw => decode_of_matches h hrow hw, fun s c rest h hin hnone => ?unmatched,
    fun cmd (hlisted : ListedIllegal cmd) row hrow => ?listed⟩
  case unmatched =>
    have hdec := decode_of_no_match h hnone
    exact ⟨hdec, step_of_illegal hin hdec⟩
  case listed =>
    by_contra hmatch
    obtain ⟨i, rfl⟩ := exists_word_of_matches hrow (Bool.not_eq_false _ ▸ hmatch)
    exact not_listedIllegal_word i hlisted

end Sys2Proof.Machine
end

section
/-! SUPPORT. The frame record, the codes of a result record, and the lookup (O33, O59, O60): the bytes of R80, the codes
of R79, R90, R281 and R282, and the register of R99. -/

namespace Sys2Proof.Machine

/-! ### The frame record -/

/-- The payload of a frame is the `P` bytes behind its header (R80). -/
theorem framePayload_eq (f : Bytes) : framePayload f = (f.drop 20).take (byteAt f 9).toNat := by
  rw [framePayload, sliceOf, Nat.add_sub_cancel_left, payloadLen]

/-- The checksum of a frame of its declared length is its last byte (R80, R81). -/
theorem frameCrc_eq_last {f : Bytes} (h : f.length = frameLen f) : frameCrc f = byteAt f (f.length - 1) := by
  rw [h, frameLen, Nat.add_sub_cancel, hdrLen, frameCrc]

/-- The direction a received frame's record reports (R83, R89). -/
theorem receivedDirection_wireDir (c : Config) (b : Byte) :
    (wireDir c b).map receivedDirection =
      if b = c.dirQuery then some .incomingQuery else if b = c.dirReply then some .reply else none := by
  unfold wireDir
  split
  · rfl
  · split <;> rfl

/-- Settles O33: the addresses, raw bytes, register id and op are the model's slices and test by definition; the payload,
checksum and direction have their lemmas above. -/
theorem frameRecordFields : Obligations.FrameRecordFields := by
  intro c f _ hlen _ _
  rw [frameRecord, frameRecordAs, receivedDirection_wireDir, framePayload_eq, frameCrc_eq_last hlen]
  rfl

/-! ### The codes -/

/-- A kind's code reads back to the kind (R90). -/
theorem kindOfCode_kindCode (k : Kind) : kindOfCode (kindCode k) = some k := by
  cases k <;> rfl

/-- Settles O59: the tables by computation, and the codes read back kind by kind. -/
theorem outcomeCodes : Obligations.OutcomeCodes :=
  ⟨rfl, rfl, rfl, rfl, rfl, kindOfCode_kindCode, rfl⟩

/-! ### The lookup -/

/-- In a legal table no two descriptors have one id (R98 WF-UNIQ). -/
theorem LegalConfig.eq_of_regId_eq {c : Config} (hc : LegalConfig c) {x y : Descriptor} (hx : x ∈ c.regTable)
    (hy : y ∈ c.regTable) (h : x.regId = y.regId) : x = y :=
  List.inj_on_of_nodup_map (List.pairwise_map.mpr hc.uniq) hx hy h

/-- In a legal configuration the lookup answers exactly the one descriptor with the id (R99). -/
theorem findRegister_iff {c : Config} (hc : LegalConfig c) {id : Bytes} {desc : Descriptor} :
    findRegister c id = some desc ↔ TheRegister c id desc := by
  constructor
  · intro h
    obtain ⟨hmem, hid⟩ := findIn_some h
    exact ⟨hmem, hid, fun d hd hdid => hc.eq_of_regId_eq hd hmem (hdid.trans hid.symm)⟩
  · exact findRegister_of_theRegister

/-- Settles O60: the lookup by induction on the table (`findIn_some`, `findIn_none`) and by its unique ids. -/
theorem lookupAndBehaviour : Obligations.LookupAndBehaviour :=
  ⟨fun _ _ => ⟨fun _ => findIn_some, findIn_none⟩, fun _ hc _ _ => findRegister_iff (configOk_iff.mp hc),
    fun _ => ⟨rfl, rfl, rfl, rfl⟩⟩

end Sys2Proof.Machine
end

section
/-! SUPPORT. The frames in TX (O44): the frame SUBMIT builds is a valid outgoing frame, and no other command emits one
(R80 to R86, R135, R242). -/

namespace Sys2Proof.Machine

/-! ### The payload of a kind -/

/-- The declared payload length of every kind fits the length byte (R81, R91). -/
theorem dlen_lt (k : Kind) (d : Byte) : dlen k d < 256 := by
  cases k with
  | digits => exact d.isLt
  | _ => simp [dlen]

/-- A 16-bit payload field is 2 bytes in either byte order (R92). -/
@[simp] theorem word16_length (o : WordOrder) (w : Nat) : (word16 o w).length = 2 := by
  cases o <;> rfl

/-- FREQ16 and GENERIC16 have one kernel (R214, R222). -/
theorem kEncodeWord_ok_length {o : WordOrder} {v : Value} {pl : Bytes} (h : kEncodeWord o v = .ok pl) :
    pl.length = 2 := by
  unfold kEncodeWord at h
  split at h
  · cases h
  · cases h
    exact word16_length _ _

/-- PERCENT, FLAG and ENUM have one kernel (R215, R218, R219). -/
theorem kEncodeUpTo_ok_length {most : Nat} {v : Value} {pl : Bytes} (h : kEncodeUpTo most v = .ok pl) :
    pl.length = 1 := by
  unfold kEncodeUpTo at h
  split at h
  · cases h
  · cases h
    rfl

/-- An encoded payload has its kind's declared length (R91, R224). -/
theorem encodeKernel_ok_length {c : Config} {k : Kind} {d : Byte} {v : Value} {bs pl : Bytes}
    (h : encodeKernel c k d v bs = .ok pl) : pl.length = dlen k d := by
  cases k with
  | temp16 =>
    simp only [encodeKernel, kEncodeTemp16] at h
    split at h
    · cases h
    · cases h
      exact word16_length _ _
  | temp8 =>
    simp only [encodeKernel, kEncodeTemp8] at h
    split at h
    · cases h
    · cases h
      rfl
  | freq16 => exact kEncodeWord_ok_length h
  | percent => exact kEncodeUpTo_ok_length h
  | timeHm =>
    simp only [encodeKernel, kEncodeTimeHm] at h
    split at h
    · cases h
    · cases h
      rfl
  | dateDmy =>
    simp only [encodeKernel, kEncodeDateDmy] at h
    split at h
    · cases h
    · split at h
      · cases h
      · cases h
        rfl
  | flag => exact kEncodeUpTo_ok_length h
  | enum => exact kEncodeUpTo_ok_length h
  | digits =>
    simp only [encodeKernel, kEncodeDigits] at h
    split at h
    · rename_i hl
      cases h
      exact hl
    · cases h
  | alarmClear =>
    cases h
    rfl
  | generic16 => exact kEncodeWord_ok_length h
  | empty =>
    cases h
    rfl

/-! ### A plan of SUBMIT -/

/-- The behaviours of queries are `beh_qr` and `beh_qw` (R97). -/
theorem behaviour_query_some {desc : Descriptor} {op : RegOp} {k : Kind} (h : behaviour desc .query op = some k) :
    desc.behQr = some k ∨ desc.behQw = some k := by
  cases op with
  | read => exact .inl h
  | write => exact .inr h

/-- A request that passes the checks names a register of the table by 9 bytes, and its payload fits a frame of the
buffer's capacity and the length byte (R98 WF-LEN, R241). -/
theorem submitCheck_plan_fits {c : Config} (hc : LegalConfig c) {op : RegOp} {arg : Bytes} {v : Value} {p : SubmitPlan}
    (h : submitCheck c op arg v = .plan p) :
    (arg.take 9).length = 9 ∧ (∃ desc ∈ c.regTable, desc.regId = arg.take 9) ∧
      p.payload.length + 21 ≤ c.cap ∧ p.payload.length < 256 := by
  obtain ⟨hlen, desc, hfind, hbeh, -, henc, -⟩ := submitCheck_plan.mp h
  obtain ⟨hmem, hid⟩ := findIn_some hfind
  have hpl := encodeKernel_ok_length henc
  have hfit := hc.len desc hmem p.kind ((behaviour_query_some hbeh).imp_right .inl)
  exact ⟨List.length_take_of_le hlen, ⟨desc, hmem, hid⟩, hpl ▸ hfit, hpl ▸ dlen_lt p.kind desc.dparam⟩

/-! ### The fields of an outgoing frame -/

/-- A checksum over a whole byte sequence, appended to it, is the stamp of the sequence it makes (R86, R135). -/
theorem stamp_append (c : Config) (f : Bytes) {g : Bytes} (hg : g = f ++ [crc8 c f 0 f.length]) :
    byteAt g (g.length - 1) = crc8 c g 0 (g.length - 1) := by
  subst hg
  have hpre : crc8 c (f ++ [crc8 c f 0 f.length]) 0 f.length = crc8 c f 0 f.length := by
    simp [crc8, sliceOf]
  rw [List.length_append, List.length_singleton, Nat.add_sub_cancel, hpre]
  simp [byteAt]

section
variable (s : State) (op : RegOp) (rid payload : Bytes)

/-- The 11 bytes before the register id, then the id, the payload and the checksum (R80, R242). -/
theorem outgoingFrame_eq :
    outgoingFrame s op rid payload =
      s.hpAddr.b0 :: s.hpAddr.b1 :: s.hpAddr.b2 :: s.hpAddr.b3 ::
      s.ctrlAddr.b0 :: s.ctrlAddr.b1 :: s.ctrlAddr.b2 :: s.ctrlAddr.b3 ::
      s.cfg.dirQuery :: BitVec.ofNat 8 payload.length :: opByteOf s.cfg op ::
      (rid ++ (payload ++
        [crc8 s.cfg (outgoingBody s op rid payload) 0 (outgoingBody s op rid payload).length])) := by
  simp [outgoingFrame, outgoingBody, BusAddr.toBytes]

theorem byteAt_outgoingFrame_direction : byteAt (outgoingFrame s op rid payload) 8 = s.cfg.dirQuery := by
  rw [outgoingFrame_eq]
  rfl

theorem byteAt_outgoingFrame_length :
    byteAt (outgoingFrame s op rid payload) 9 = BitVec.ofNat 8 payload.length := by
  rw [outgoingFrame_eq]
  rfl

theorem byteAt_outgoingFrame_op : byteAt (outgoingFrame s op rid payload) 10 = opByteOf s.cfg op := by
  rw [outgoingFrame_eq]
  rfl

theorem outgoingFrame_stamped :
    byteAt (outgoingFrame s op rid payload) ((outgoingFrame s op rid payload).length - 1) =
      crc8 s.cfg (outgoingFrame s op rid payload) 0 ((outgoingFrame s op rid payload).length - 1) :=
  stamp_append s.cfg (outgoingBody s op rid payload) rfl

variable {rid} (hrid : rid.length = 9)
include hrid

theorem outgoingFrame_length : (outgoingFrame s op rid payload).length = 21 + payload.length := by
  rw [outgoingFrame, List.length_append, outgoingBody_length s op payload hrid, List.length_singleton]
  omega

theorem outgoingFrame_regId : ((outgoingFrame s op rid payload).drop 11).take 9 = rid := by
  rw [outgoingFrame_eq]
  exact List.take_left' hrid

variable {payload} (hpl : payload.length < 256)
include hpl

/-- The length byte gives the frame's length (R81, R82). -/
theorem frameLen_outgoingFrame :
    frameLen (outgoingFrame s op rid payload) = (outgoingFrame s op rid payload).length := by
  rw [frameLen, payloadLen, byteAt_outgoingFrame_length, BitVec.toNat_ofNat, Nat.mod_eq_of_lt hpl,
    outgoingFrame_length s op payload hrid, hdrLen]
  omega

end

/-- The frame of a request that passed the checks is a valid outgoing frame (R242). -/
theorem outgoingFrame_valid {s : State} (hc : LegalConfig s.cfg) {op : RegOp} {arg : Bytes} {v : Value} {p : SubmitPlan}
    (h : submitCheck s.cfg op arg v = .plan p) : ValidOutgoing s.cfg (outgoingFrame s op (arg.take 9) p.payload) := by
  obtain ⟨hrid, ⟨desc, hmem, hid⟩, hfit, hbyte⟩ := submitCheck_plan_fits hc h
  exact {
    length := (frameLen_outgoingFrame s op hrid hbyte).symm
    fits := by
      rw [outgoingFrame_length s op _ hrid]
      omega
    query := byteAt_outgoingFrame_direction s op _ _
    op := by
      rw [byteAt_outgoingFrame_op]
      cases op with
      | read => exact .inl rfl
      | write => exact .inr rfl
    register := ⟨desc, hmem, hid.trans (outgoingFrame_regId s op _ hrid).symm⟩
    stamped := outgoingFrame_stamped s op _ _ }

/-! ### TX along a run -/

theorem State.TxValid.congr {s t : State} (h : s.TxValid) (hcfg : t.cfg = s.cfg) (htx : t.tx = s.tx) : t.TxValid := by
  unfold State.TxValid
  rw [hcfg, htx]
  exact h

/-- A valid frame may be emitted (R36, R242). -/
theorem State.TxValid.emitTx {s : State} (h : s.TxValid) {f : Bytes} (hf : ValidOutgoing s.cfg f) :
    (s.emitTx f).TxValid := by
  intro g hg
  obtain hold | hnew := List.mem_append.mp hg
  · exact h g hold
  · exact List.mem_singleton.mp hnew ▸ hf

/-- Whatever a command performs keeps TX valid: SUBMIT emits a valid frame, and no other command emits (R36). -/
theorem State.TxValid.performs {s t : State} {i : Instr} (h : s.TxValid) (hc : LegalConfig s.cfg)
    (hp : Performs i s t) : t.TxValid := by
  cases hp with
  | submit op arg v p hplan => exact h.emitTx (outgoingFrame_valid hc hplan)
  | process => exact h.congr (by simp) (by simp)
  | _ => exact h

/-- Settles O44: an external reset leaves TX empty, and every command keeps it valid by `State.TxValid.performs`. -/
theorem stepKeepsTxValid : Obligations.StepKeepsTxValid :=
  fun _ _ hc hs => step_keeps hs (fun _ hf => nomatch hf) fun _ _ => hs.performs (configOk_iff.mp hc)

end Sys2Proof.Machine
end

section
/-! SUPPORT. The commands of the incoming buffer (O6 to O9): the opcodes that have one row only, what each command
answers, and the change it makes beside its record (R72, R74, R110 to R113). -/

namespace Sys2Proof.Machine

/-! ### Opcodes with one row -/

/-- Where the only row of an opcode has SEL and IMM zero, every other word of the opcode is illegal (R72, R74). -/
theorem illegalElsewhere_of_row {opc : BitVec 4} (f : Bytes → Value → Instr)
    (hrow : ∀ sel imm arg value,
      decodeFields opc.toNat sel imm arg value = needZeroSel sel (needZeroImm imm (f arg value))) :
    IllegalElsewhere opc (cmdOf opc 0 0) := by
  intro c harg hopc hne
  refine (decode_legal_or_illegal harg).resolve_left fun ⟨i, hi⟩ => hne ?_
  rw [decode_of_arg c harg, hopc, hrow] at hi
  obtain ⟨hsel, hi⟩ := needZeroSel_instr hi
  obtain ⟨himm, -⟩ := needZeroImm_instr hi
  rw [← cmdOf_fields c.cmd, hopc, hsel, himm]

/-- Where the only row of an opcode has SEL zero, every word of the opcode with another SEL is illegal (R72, R74). -/
theorem illegalSel_of_row {opc : BitVec 4} (d : Byte → Bytes → Value → Decoded)
    (hrow : ∀ sel imm arg value, decodeFields opc.toNat sel imm arg value = needZeroSel sel (d imm arg value)) :
    IllegalSel opc := by
  intro c harg hopc hsel
  refine (decode_legal_or_illegal harg).resolve_left fun ⟨i, hi⟩ => hsel ?_
  rw [decode_of_arg c harg, hopc, hrow] at hi
  exact (needZeroSel_instr hi).1

/-! ### What the commands answer -/

theorem exec_nop (s : State) : exec .nop s = .next (s.result {}) := rfl

theorem exec_append (arg : Bytes) (s : State) :
    exec (.append arg) s = .next
      ((s.appendBytes (arg.take (min arg.length (s.cfg.cap - s.fill)))).result
        { value := BitVec.ofNat 32 (min arg.length (s.cfg.cap - s.fill)), valid := true }) := rfl

theorem exec_consume_of_le {n : Byte} {s : State} (h : n.toNat ≤ s.fill) :
    exec (.consume n) s = .next
      ((s.removeFront n.toNat).result { value := BitVec.ofNat 32 (s.fill - n.toNat), valid := true }) :=
  if_neg (Nat.not_lt_of_le h)

theorem exec_consume_of_lt {n : Byte} {s : State} (h : s.fill < n.toNat) :
    exec (.consume n) s = .next (s.raise .badOperand .none) :=
  if_pos h

theorem exec_resetBuf (s : State) :
    exec .resetBuf s = .next (({ s with bufStore := [], fill := 0, expLen := none } : State).result {}) := rfl

/-! ### The records and the frames -/

/-- Ending a command with a record is the statement's "returns" (R12, R73). -/
theorem result_eq_returns (s : State) (r : Result) : s.result r = returns s r := rfl

/-- Raising a status is the statement's "refuses" (R73, R293). -/
theorem raise_eq_refuses (s : State) (code : StatusCode) (cause : Cause) : s.raise code cause = refuses s code cause :=
  rfl

/-- Appended bytes are stored from FILL on and nowhere else (R111). -/
theorem State.read_appendBytes_outside {s : State} {bs : Bytes} {x : Nat}
    (h : ¬(s.fill ≤ x ∧ x < s.fill + bs.length)) :
    Memory.read (s.appendBytes bs).bufStore x = Memory.read s.bufStore x := by
  rw [State.appendBytes_bufStore, Memory.read_writeBytes, if_neg h]

/-- Beside its record, an append changes BUFSTORE and FILL only (R111). -/
theorem State.appendBytes_result_eq (s : State) (bs : Bytes) (r : Result) :
    (s.appendBytes bs).result r =
      { returns s r with bufStore := (s.appendBytes bs).bufStore, fill := s.fill + bs.length } := rfl

/-- Beside its record, a removal changes BUFSTORE, FILL and EXPLEN only (R112, R153). -/
theorem State.removeFront_result_eq (s : State) (n : Nat) (r : Result) :
    (s.removeFront n).result r =
      { returns s r with bufStore := (s.removeFront n).bufStore, fill := s.fill - n, expLen := none } := rfl

/-! ### The obligations -/

/-- Settles O6: opcode 0 has one row, and NOP ends with a default record. -/
theorem nopChangesNothing : Obligations.NopChangesNothing :=
  ⟨decode_cmdOf 0x0 0x0 0, illegalElsewhere_of_row (opc := 0x0) (fun _ _ => .nop) fun _ _ _ _ => rfl,
    fun s => (exec_nop s).trans (congrArg _ (result_eq_returns s _))⟩

/-- Settles O7: the accepted bytes are as many as the record reports, so the store writes exactly `FILL .. FILL + a`. -/
theorem appendAcceptsWhatFits : Obligations.AppendAcceptsWhatFits := by
  refine ⟨decode_cmdOf 0x1 0x0 0, illegalElsewhere_of_row (opc := 0x1) (fun arg _ => .append arg) fun _ _ _ _ => rfl,
    fun arg s b hb => ?_⟩
  have haccepted : (arg.take (min arg.length (s.cfg.cap - s.fill))).length = min arg.length (s.cfg.cap - s.fill) :=
    List.length_take_of_le (Nat.min_le_left _ _)
  refine ⟨_, exec_append arg s, State.buf_appendBytes _ hb, fun x hx => ?store, ?frame⟩
  case store =>
    rw [← haccepted] at hx
    exact State.read_appendBytes_outside hx
  case frame =>
    have hframe := State.appendBytes_result_eq s (arg.take (min arg.length (s.cfg.cap - s.fill)))
    rw [haccepted] at hframe
    exact hframe _

/-- Settles O8: at most FILL bytes leave the front and the rest keeps its order; more are refused. -/
theorem consumeRemovesPrefix : Obligations.ConsumeRemovesPrefix := by
  refine ⟨fun n a v h => decode_add_imm 0x3 0x0 n v h,
    illegalSel_of_row (opc := 0x3) (fun imm _ _ => .instr (.consume imm)) fun _ _ _ _ => rfl, ?removes, ?refused⟩
  case removes =>
    intro n s b hb hn
    exact ⟨_, exec_consume_of_le hn, State.buf_removeFront _ hb, State.removeFront_result_eq s _ _⟩
  case refused =>
    intro n s hn
    rw [exec_consume_of_lt hn, raise_eq_refuses]

/-- Settles O9: opcode 4 has one row, and the buffer of FILL 0 is empty whatever BUFSTORE holds. -/
theorem resetBufEmpties : Obligations.ResetBufEmpties :=
  ⟨decode_cmdOf 0x4 0x0 0, illegalElsewhere_of_row (opc := 0x4) (fun _ _ => .resetBuf) fun _ _ _ _ => rfl,
    fun s => ⟨_, exec_resetBuf s, Memory.readBytes_zero [] 0, rfl⟩⟩

end Sys2Proof.Machine
end

section
/-! SUPPORT. The checksum (O10 to O12): the register's shifts on numbers, the table form, the CRC8 command, and the
shifts as injections of the register, from which a byte error is detected (R130 to R133, R136). -/

namespace Sys2Proof.Machine

/-! ### The checksum on numbers -/

/-- Shifts of the register are shifts of its number. -/
theorem crcShifts_toNat {shift : Byte → Byte} {shiftNat : Nat → Nat} (h : ∀ c, (shift c).toNat = shiftNat c.toNat)
    (n : Nat) (c : Byte) : (crcShifts shift n c).toNat = shiftNat^[n] c.toNat := by
  induction n generalizing c with
  | zero => rfl
  | succ n ih => rw [crcShifts, ih, h, Function.iterate_succ_apply]

/-- `crc8_step` on numbers (R130). -/
theorem crcStep_toNat (poly c b : Byte) :
    (crcStep poly c b).toNat = eightShifts (shiftMsb poly.toNat) (c.toNat ^^^ b.toNat) := by
  rw [crcStep, crcShifts_toNat (crcShift_toNat poly), BitVec.toNat_xor]
  rfl

/-- `crc8_step_r` on numbers (R131). -/
theorem crcStepR_toNat (poly c b : Byte) :
    (crcStepR poly c b).toNat = eightShifts (shiftLsb poly.toNat) (c.toNat ^^^ b.toNat) := by
  rw [crcStepR, crcShifts_toNat (crcShiftR_toNat poly), BitVec.toNat_xor]
  rfl

/-- A fold over bytes that keeps step with a register update computes the register's number. -/
theorem foldl_toNat {update : Byte → Byte → Byte} {updateNat : Nat → Byte → Nat}
    (h : ∀ r b, (update r b).toNat = updateNat r.toNat b) (bs : Bytes) (r : Byte) :
    (bs.foldl update r).toNat = bs.foldl updateNat r.toNat :=
  (List.foldl_hom BitVec.toNat fun r b => (h r b).symm).symm

theorem crcOf_of_msb {c : Config} (h : c.crcReflect = false) (bs : Bytes) :
    crcOf c bs = bs.foldl (crcStep c.crcPoly) c.crcInit ^^^ c.crcXorOut := by
  unfold crcOf crcUpdate crcStartValue
  simp [h]

theorem crcOf_of_lsb {c : Config} (h : c.crcReflect = true) (bs : Bytes) :
    crcOf c bs = bs.foldl (crcStepR c.crcPoly) (rev8 c.crcInit) ^^^ c.crcXorOut := by
  unfold crcOf crcUpdate crcStartValue
  simp [h]

/-- The checksum is the one spelled from R130 to R132. -/
theorem crcOf_toNat (c : Config) (bs : Bytes) : (crcOf c bs).toNat = checksumByRules c bs := by
  cases h : c.crcReflect with
  | false =>
    rw [crcOf_of_msb h, BitVec.toNat_xor, checksumByRules, h]
    congr 1
    exact foldl_toNat (crcStep_toNat _) bs _
  | true =>
    rw [crcOf_of_lsb h, BitVec.toNat_xor, checksumByRules, h, ← rev8_toNat]
    congr 1
    exact foldl_toNat (crcStepR_toNat _) bs _

/-! ### The table form and the range form -/

/-- Where the fold over a byte consults the 256-entry table, the index is a byte, so the entry is there (R130). -/
theorem crcStep_toNat_table (poly r b : Byte) :
    (crcStep poly r b).toNat =
      ((List.range 256).map fun x => eightShifts (shiftMsb poly.toNat) x).getD (r.toNat ^^^ b.toNat) 0 := by
  have hindex : r.toNat ^^^ b.toNat < 256 := BitVec.toNat_xor r b ▸ (r ^^^ b).isLt
  rw [crcStep_toNat]
  simp [List.getD_eq_getElem?_getD, List.getElem?_range hindex]

theorem crc8_eq (c : Config) (bs : Bytes) (start length : Nat) :
    crc8 c bs start length = crcOf c ((bs.drop start).take length) := by
  rw [crc8, sliceOf, Nat.add_sub_cancel_left]

/-- Settles O11: register and number keep step shift by shift, byte by byte, and the table holds the eight shifts. -/
theorem crcTableForm : Obligations.CrcTableForm := by
  refine ⟨crcOf_toNat, ?table, fun c bs start length _ => crc8_eq c bs start length, ?checkValue⟩
  case table =>
    intro c bs h
    rw [crcOf_of_msb h, BitVec.toNat_xor]
    congr 1
    exact foldl_toNat (crcStep_toNat_table _) bs _
  case checkValue => decide +kernel

/-! ### The CRC8 command -/

/-- `VALUE[31:16]` on numbers (R133). -/
theorem crcStart_eq (v : Value) : crcStart v = v.toNat / 65536 := by
  have hlt := v.isLt
  simp only [crcStart, valueHigh, BitVec.extractLsb'_toNat, Nat.shiftRight_eq_div_pow]
  omega

/-- `VALUE[15:0]` on numbers (R133). -/
theorem crcLength_eq (v : Value) : crcLength v = v.toNat % 65536 := by
  simp [crcLength, valueLow, BitVec.extractLsb'_toNat]

/-- CRC8's result is the checksum of the range spelled on numbers (R132, R133). -/
theorem zext8_crc8 (c : Config) (bs : Bytes) (start length : Nat) :
    zext8 (crc8 c bs start length) = BitVec.ofNat 32 (checksumByRules c ((bs.drop start).take length)) := by
  rw [crc8_eq, ← crcOf_toNat, BitVec.ofNat_toNat, zext8]

theorem exec_crc8_of_le {arg : Bytes} {v : Value} {s : State} (h : crcStart v + crcLength v ≤ arg.length) :
    exec (.crc8 arg v) s = .next
      (s.result { value := zext8 (crc8 s.cfg arg (crcStart v) (crcLength v)), valid := true }) :=
  if_neg (Nat.not_lt_of_le h)

theorem exec_crc8_of_lt {arg : Bytes} {v : Value} {s : State} (h : arg.length < crcStart v + crcLength v) :
    exec (.crc8 arg v) s = .next (s.raise .badOperand .none) :=
  if_pos h

/-- Settles O10: opcode 5 has one row, and CRC8 answers the checksum of the range if ARG holds it. -/
theorem crc8ChecksOperand : Obligations.Crc8ChecksOperand := by
  refine ⟨decode_cmdOf 0x5 0x0 0, illegalElsewhere_of_row (opc := 0x5) .crc8 fun _ _ _ _ => rfl, ?inRange, ?pastEnd⟩
  case inRange =>
    intro arg v s h
    rw [← crcStart_eq, ← crcLength_eq] at h ⊢
    rw [exec_crc8_of_le h, zext8_crc8, result_eq_returns]
  case pastEnd =>
    intro arg v s h
    rw [← crcStart_eq, ← crcLength_eq] at h
    rw [exec_crc8_of_lt h, raise_eq_refuses]

/-! ### The shifts are injective where bit 0 of the polynomial is set

The bit that a shift moves out of the register comes back as the polynomial's bit 0 (R130), or as the bit 7 of its
reversal (R131), so no two registers shift to the same one. -/

theorem crcShift_bit_zero (poly c : Byte) :
    (crcShift poly c).getLsbD 0 = (c.getLsbD 7 && poly.getLsbD 0) := by
  unfold crcShift
  cases c.getLsbD 7 <;> simp

theorem crcShift_bit_succ (poly c : Byte) {i : Nat} (hi : i + 1 < 8) :
    (crcShift poly c).getLsbD (i + 1) = (c.getLsbD i ^^ (c.getLsbD 7 && poly.getLsbD (i + 1))) := by
  unfold crcShift
  cases c.getLsbD 7 <;> simp [hi, Nat.lt_of_succ_lt hi]

theorem crcShiftR_bit_seven (poly c : Byte) :
    (crcShiftR poly c).getLsbD 7 = (c.getLsbD 0 && poly.getLsbD 0) := by
  have hrev : (rev8 poly).getLsbD 7 = poly.getLsbD 0 := BitVec.getLsbD_reverse
  rw [← hrev]
  unfold crcShiftR
  cases c.getLsbD 0 <;> simp

theorem crcShiftR_bit (poly c : Byte) (i : Nat) :
    (crcShiftR poly c).getLsbD i = (c.getLsbD (i + 1) ^^ (c.getLsbD 0 && (rev8 poly).getLsbD i)) := by
  unfold crcShiftR
  cases c.getLsbD 0 <;> simp [Nat.add_comm]

theorem crcShift_injective {poly : Byte} (h : poly.getLsbD 0 = true) : Function.Injective (crcShift poly) := by
  intro c d hcd
  have hout : c.getLsbD 7 = d.getLsbD 7 := by
    have hbit := congrArg (BitVec.getLsbD · 0) hcd
    simpa only [crcShift_bit_zero, h, Bool.and_true] using hbit
  apply BitVec.eq_of_getLsbD_eq
  intro i hi
  obtain rfl | hlow : i = 7 ∨ i + 1 < 8 := by omega
  · exact hout
  · have hbit := congrArg (BitVec.getLsbD · (i + 1)) hcd
    simpa only [crcShift_bit_succ _ _ hlow, hout, Bool.xor_left_inj] using hbit

theorem crcShiftR_injective {poly : Byte} (h : poly.getLsbD 0 = true) : Function.Injective (crcShiftR poly) := by
  intro c d hcd
  have hout : c.getLsbD 0 = d.getLsbD 0 := by
    have hbit := congrArg (BitVec.getLsbD · 7) hcd
    simpa only [crcShiftR_bit_seven, h, Bool.and_true] using hbit
  apply BitVec.eq_of_getLsbD_eq
  intro i hi
  cases i with
  | zero => exact hout
  | succ i =>
    have hbit := congrArg (BitVec.getLsbD · i) hcd
    simpa only [crcShiftR_bit, hout, Bool.xor_left_inj] using hbit

theorem crcShifts_injective {shift : Byte → Byte} (h : Function.Injective shift) (n : Nat) :
    Function.Injective (crcShifts shift n) := by
  induction n with
  | zero => exact Function.injective_id
  | succ n ih => exact ih.comp h

/-! ### A byte error is detected -/

/-- In both bit orders the update takes different sums of register and input byte to different registers. -/
theorem crcUpdate_eq_imp {c : Config} (h : c.crcPoly.getLsbD 0 = true) {r r' b b' : Byte}
    (he : crcUpdate c r b = crcUpdate c r' b') : r ^^^ b = r' ^^^ b' := by
  unfold crcUpdate at he
  split at he
  · exact crcShifts_injective (crcShiftR_injective h) 8 he
  · exact crcShifts_injective (crcShift_injective h) 8 he

/-- The register after the covered bytes determines the register before them. -/
theorem foldl_crcUpdate_injective {c : Config} (h : c.crcPoly.getLsbD 0 = true) (bs : Bytes) :
    Function.Injective fun r => bs.foldl (crcUpdate c) r := by
  induction bs with
  | nil => exact Function.injective_id
  | cons b bs ih => exact fun r r' he => (BitVec.xor_left_inj _).mp (crcUpdate_eq_imp h (ih he))

/-- With every other byte unchanged, the register after the covered bytes determines the byte at an index. -/
theorem eq_byteAt_of_foldl_set_eq {c : Config} (h : c.crcPoly.getLsbD 0 = true) {x : Byte} {bs : Bytes} {i : Nat}
    {r : Byte} (hi : i < bs.length) (he : (bs.set i x).foldl (crcUpdate c) r = bs.foldl (crcUpdate c) r) :
    x = byteAt bs i := by
  induction bs generalizing i r with
  | nil => cases hi
  | cons b bs ih =>
    cases i with
    | zero => exact (BitVec.xor_right_inj _).mp (crcUpdate_eq_imp h (foldl_crcUpdate_injective h bs he))
    | succ i => exact ih (Nat.lt_of_succ_lt_succ hi) he

/-- Settles O12: equal checksums come from equal registers, so the changed byte would be the old one. -/
theorem crcDetectsByteError : Obligations.CrcDetectsByteError := by
  intro c bs i e hpoly hi he hcrc
  have hsame : byteAt bs i ^^^ e = byteAt bs i := eq_byteAt_of_foldl_set_eq hpoly hi ((BitVec.xor_left_inj _).mp hcrc)
  exact he (by simpa using hsame)

end Sys2Proof.Machine
end

section
/-! SUPPORT. The outcomes of one PROCESS step (O25 to O30, O32, O34): a frame not yet there, a frame that is discarded,
and what the dispatch answers for a CRC-valid frame (R141 to R154). -/

namespace Sys2Proof.Machine

/-! ### The header and the frame at the front of the buffer -/

/-- The header fields of the frame at the front of the buffer are the buffer's. -/
theorem byteAt_take_frameLen {b : Bytes} {i : Nat} (h : i < hdrLen) : byteAt (b.take (frameLen b)) i = byteAt b i :=
  byteAt_take (h.trans (hdrLen_lt_frameLen b))

theorem frameRegId_take_frameLen (b : Bytes) : frameRegId (b.take (frameLen b)) = (b.drop 11).take 9 :=
  frameRegId_take (hdrLen_lt_frameLen b).le

/-! ### Discriminators -/

/-- A byte that is no direction byte names no direction (R83). -/
theorem wireDir_eq_none {c : Config} {x : Byte} (h : x ≠ c.dirQuery ∧ x ≠ c.dirReply) : wireDir c x = none := by
  rw [wireDir, if_neg h.1, if_neg h.2]

/-- A byte that is no op byte names no op (R84). -/
theorem wireOp_eq_none {c : Config} {x : Byte} (h : x ≠ c.opRead ∧ x ≠ c.opWrite) : wireOp c x = none := by
  rw [wireOp, if_neg h.1, if_neg h.2]

theorem exists_namesDirection {c : Config} {x : Byte} (h : x = c.dirQuery ∨ x = c.dirReply) :
    ∃ dir, NamesDirection c x dir := by
  by_cases hq : x = c.dirQuery
  · exact ⟨.query, .inl ⟨rfl, hq⟩⟩
  · exact ⟨.reply, .inr ⟨rfl, h.resolve_left hq, hq⟩⟩

theorem exists_namesOp {c : Config} {x : Byte} (h : x = c.opRead ∨ x = c.opWrite) : ∃ op, NamesOp c x op := by
  by_cases hr : x = c.opRead
  · exact ⟨.read, .inl ⟨rfl, hr⟩⟩
  · exact ⟨.write, .inr ⟨rfl, h.resolve_left hr, hr⟩⟩

/-- The direction of the frame at the front of the buffer. -/
theorem wireDir_take_frameLen {c : Config} {b : Bytes} {dir : WireDir} (h : NamesDirection c (byteAt b 8) dir) :
    wireDir c (byteAt (b.take (frameLen b)) 8) = some dir := by
  rw [byteAt_take_frameLen (by decide), wireDir_of_namesDirection h]

/-- The op of the frame at the front of the buffer. -/
theorem wireOp_take_frameLen {c : Config} {b : Bytes} {op : RegOp} (h : NamesOp c (byteAt b 10) op) :
    wireOp c (byteAt (b.take (frameLen b)) 10) = some op := by
  rw [byteAt_take_frameLen (by decide), wireOp_of_namesOp h]

/-! ### What the dispatch answers for the frame at the front of the buffer -/

section
variable {c : Config} {b : Bytes}

/-- A direction byte or an op byte that names nothing ends the dispatch (R147). -/
theorem dispatchFrame_badDiscriminator
    (h : byteAt b 8 ≠ c.dirQuery ∧ byteAt b 8 ≠ c.dirReply ∨ byteAt b 10 ≠ c.opRead ∧ byteAt b 10 ≠ c.opWrite) :
    dispatchFrame c (b.take (frameLen b)) =
      { out := { resClass := .unknown, disp := .badDiscriminator, frame := some (frameRecord c (b.take (frameLen b))) },
        write := none } := by
  have hnone := h.imp wireDir_eq_none wireOp_eq_none
  obtain ⟨-, e⟩ | ⟨dir, op, hdir, hop, -⟩ := dispatchFrame_cases c (b.take (frameLen b))
  · exact e
  · rw [byteAt_take_frameLen (by decide)] at hdir hop
    simp [hdir, hop] at hnone

variable {dir : WireDir} {op : RegOp} (hdir : NamesDirection c (byteAt b 8) dir) (hop : NamesOp c (byteAt b 10) op)
include hdir hop

/-- With known discriminators, a register that is not in the table ends the dispatch (R148). -/
theorem dispatchFrame_noRegister (hreg : ∀ desc ∈ c.regTable, desc.regId ≠ (b.drop 11).take 9) :
    dispatchFrame c (b.take (frameLen b)) =
      { out := { resClass := .unknown, disp := .noRegister, frame := some (frameRecord c (b.take (frameLen b))) },
        write := none } := by
  have hnone : findRegister c ((b.drop 11).take 9) = none := findIn_none.mpr hreg
  simp [dispatchFrame, wireDir_take_frameLen hdir, wireOp_take_frameLen hop, frameRegId_take_frameLen,
    hnone]

variable {desc : Descriptor} (hreg : TheRegister c ((b.drop 11).take 9) desc)
include hreg

/-- A known register without a behaviour for the direction and op ends the dispatch (R149, R150). -/
theorem dispatchFrame_unsupported (hbeh : HasBehaviour desc dir op none) :
    dispatchFrame c (b.take (frameLen b)) =
      { out := { resClass := classOfDir dir, disp := .unsupported,
                 frame := some (frameRecord c (b.take (frameLen b))) }, write := none } := by
  simp [dispatchFrame, wireDir_take_frameLen hdir, wireOp_take_frameLen hop, frameRegId_take_frameLen,
    findRegister_of_theRegister hreg, behaviour_of_hasBehaviour hbeh]

/-- A known register with a behaviour is decoded by it (R149 to R151). -/
theorem dispatchFrame_decode {k : Kind} (hbeh : HasBehaviour desc dir op (some k)) :
    dispatchFrame c (b.take (frameLen b)) = dispatchDecode c desc dir k (b.take (frameLen b)) := by
  simp [dispatchFrame, wireDir_take_frameLen hdir, wireOp_take_frameLen hop, frameRegId_take_frameLen,
    findRegister_of_theRegister hreg, behaviour_of_hasBehaviour hbeh]

end

/-- A decode that answers `ok` is reported, and projected into the status field of a reply (R151, R152). -/
theorem dispatchDecode_of_ok {c : Config} {desc : Descriptor} {dir : WireDir} {k : Kind} {f : Bytes} {v : Value}
    {bs : Bytes} (h : decodeKernel c k desc.dparam (framePayload f) = .ok v bs) :
    dispatchDecode c desc dir k f =
      { out := { resClass := classOfDir dir, kind := kindCode k, disp := .ok, value := v, bytes := bs, valid := true,
                 field := projectedField desc dir, frame := some (frameRecord c f) },
        write := (projectedField desc dir).map fun i => (i, { kind := k, value := v, bytes := bs }) } := by
  rw [dispatchDecode, h]

/-- The class by the direction, spelled as the statements spell it (R149). -/
theorem classOfDir_eq (dir : WireDir) : classOfDir dir = if dir = .query then .query else .reply := by
  cases dir <;> rfl

/-- Only a reply is projected, spelled as the statements spell it (R152). -/
theorem projectedField_eq (desc : Descriptor) (dir : WireDir) :
    projectedField desc dir = if dir = .reply then desc.statusField else none := by
  cases dir <;> rfl

/-! ### A whole frame, by what the dispatch answers for it -/

/-- The step on a CRC-valid frame, once the dispatch's answer is known (R153 to R155). -/
theorem processesFrame_of_dispatch {nc : Bool} {s : State} {b : Bytes} {d : DispatchOut} (w : WholeFrame s b)
    (hm : CrcMatches s.cfg b) (hd : dispatchFrame s.cfg (b.take (frameLen b)) = d) :
    ∃ t, ProcessesFrame nc s b d.out t ∧ t.status = (s.project d.write).status :=
  ⟨_, hd ▸ processStep_processesFrame w hm⟩

/-! ### The grab -/

/-- The grab store and its length after `grab(m)`, with the sink on (R154). -/
theorem grabbed_of_eq_grab {s t : State} {m : Nat} {b : Bytes} (hstore : t.grabStore = (s.grab m b).grabStore)
    (hlen : t.grabLen = (s.grab m b).grabLen) (hm : m ≤ b.length) (hen : s.grabEn = true) :
    t.grabLen = min m s.grabCap ∧ t.grabBytes = some (b.take (min m s.grabCap)) := by
  constructor
  · rw [hlen, State.grab_grabLen, if_pos hen]
  · rw [← State.grabBytes_grab m hen hm, State.grabBytes, State.grabBytes, hstore, hlen]

/-- With the sink off a grab copies nothing (R154). -/
theorem State.grab_of_off {s : State} (h : s.grabEn = false) (m : Nat) (b : Bytes) : s.grab m b = s := by
  simp [State.grab, h]

/-- Which bytes a PROCESS step grabs, by the record it returns (R154). -/
theorem processStep_grabs {nc : Bool} {b : Bytes} {s : State} {r : Result}
    (hr : (processStep nc b s).results = s.results ++ [r]) :
    (r.resClass = .none ∧ (processStep nc b s).grabStore = s.grabStore ∧ (processStep nc b s).grabLen = s.grabLen) ∨
    ∃ m, r.resClass ≠ .none ∧ m = (if r.cause = .header then hdrLen else frameLen b) ∧ m ≤ b.length ∧
      (processStep nc b s).grabStore = (s.grab m b).grabStore ∧
      (processStep nc b s).grabLen = (s.grab m b).grabLen := by
  obtain ⟨-, e⟩ | ⟨hhdr, -, e⟩ | ⟨-, -, -, e⟩ | ⟨-, -, hlen, -, e⟩ | ⟨-, -, hlen, -, e⟩ := processStep_cases nc b s
  all_goals
    rw [e] at hr ⊢
    obtain rfl : _ = r := by simpa using hr
  · exact .inl ⟨rfl, rfl, rfl⟩
  · exact .inr ⟨hdrLen, nofun, rfl, hhdr, rfl, rfl⟩
  · exact .inl ⟨rfl, rfl, rfl⟩
  · exact .inr ⟨frameLen b, nofun, rfl, hlen, rfl, rfl⟩
  · obtain ⟨hclass, -, hcause⟩ := dispatchFrame_class s.cfg (b.take (frameLen b))
    refine .inr ⟨frameLen b, fun h => ?_, (if_neg hcause).symm, hlen, by simp, by simp⟩
    simp [h] at hclass

/-! ### The obligations -/

/-- Settles O25: both waits are cases of the step, and neither writes more than EXPLEN. -/
theorem processWaitsForBytes : Obligations.ProcessWaitsForBytes := by
  refine ⟨fun nc s b hb hshort => ?_, fun nc s b hb hhdr hcap hlen => ?_⟩
  · rw [exec_processCmd_of_buf nc hb, processStep_short hshort, result_eq_returns]
  · rw [exec_processCmd_of_buf nc hb, processStep_incomplete hhdr hcap hlen]
    rfl

/-- Settles O26: the step on a self-inconsistent header is one grab and one removed byte, whatever the mode. -/
theorem processDropsBadHeader : Obligations.ProcessDropsBadHeader := by
  intro nc s b hb hhdr hcap
  refine ⟨_, exec_processCmd_of_buf nc hb, ?_⟩
  rw [processStep_header hhdr hcap]
  refine ⟨State.buf_removeFront 1 (by simpa using hb), ?_⟩
  rw [State.removeFront_result_eq]
  simp [returns]

/-- Settles O27: the step on a checksum mismatch is one grab and `L` removed bytes, whatever the mode. -/
theorem processDropsBadChecksum : Obligations.ProcessDropsBadChecksum := by
  rintro nc s b ⟨hb, hhdr, hcap, hlen⟩ hm
  refine ⟨_, exec_processCmd_of_buf nc hb, ?_⟩
  rw [processStep_badCrc hhdr hcap hlen hm]
  refine ⟨State.buf_removeFront _ (by simpa using hb), ?_⟩
  rw [State.removeFront_result_eq]
  simp [returns]

/-- Settles O28: the dispatch ends at the discriminators. -/
theorem processUnknownDiscriminator : Obligations.ProcessUnknownDiscriminator :=
  fun _ _ _ w hm h => processesFrame_of_dispatch w hm (dispatchFrame_badDiscriminator h)

/-- Settles O29: the dispatch ends at the lookup. -/
theorem processUnknownRegister : Obligations.ProcessUnknownRegister := by
  intro nc s b w hm hdirByte hopByte hreg
  obtain ⟨dir, hdir⟩ := exists_namesDirection hdirByte
  obtain ⟨op, hop⟩ := exists_namesOp hopByte
  exact processesFrame_of_dispatch w hm (dispatchFrame_noRegister hdir hop hreg)

/-- Settles O30: the dispatch ends at the behaviour selection. -/
theorem processUnsupported : Obligations.ProcessUnsupported := by
  intro nc s b dir op desc w hm hdir hop hreg hbeh
  rw [← classOfDir_eq]
  exact processesFrame_of_dispatch w hm (dispatchFrame_unsupported hdir hop hreg hbeh)

/-- Settles O32: the dispatch runs to the decode, and the projector writes exactly the field of a reply's register. -/
theorem processDecodesAndProjects : Obligations.ProcessDecodesAndProjects := by
  intro nc s b dir op desc k v bs w hm hdir hop hreg hbeh hk
  rw [← framePayload_take] at hk
  obtain ⟨t, ht, hst⟩ := processesFrame_of_dispatch (nc := nc) w hm
    ((dispatchFrame_decode hdir hop hreg hbeh).trans (dispatchDecode_of_ok hk))
  rw [← classOfDir_eq, ← projectedField_eq]
  refine ⟨t, ht, ?writes, ?keeps⟩
  case writes =>
    rintro f rfl hf
    rw [hst, projectedField_eq, if_pos rfl, hf]
    rfl
  case keeps =>
    intro h
    have hnone : projectedField desc dir = none := by
      rw [projectedField_eq]
      obtain rfl | hf := h <;> simp [*]
    rw [hst, hnone]
    rfl

/-- Settles O34: `processStep_grabs` says how many bytes are grabbed, `grabbed_of_eq_grab` which. -/
theorem grabCopiesRawFrame : Obligations.GrabCopiesRawFrame := by
  intro nc s t b r hb hexec hr
  rw [exec_processCmd_of_buf nc hb] at hexec
  cases hexec
  obtain ⟨hnone, hkeep⟩ | ⟨m, hsome, hm, hlen, hstore, hglen⟩ := processStep_grabs hr
  · exact ⟨fun _ => hkeep, fun h => absurd hnone h, fun h => absurd hnone h⟩
  · refine ⟨fun h => ?off, fun _ hen hcause => ?header, fun _ hen hcause => ?frame⟩
    case off =>
      rw [State.grab_of_off (h.resolve_left hsome)] at hstore hglen
      exact ⟨hstore, hglen⟩
    case header =>
      rw [if_pos hcause] at hm
      exact hm ▸ grabbed_of_eq_grab hstore hglen hlen hen
    case frame =>
      rw [if_neg hcause] at hm
      exact hm ▸ grabbed_of_eq_grab hstore hglen hlen hen

end Sys2Proof.Machine
end

section
/-! SUPPORT. Properties of PROCESS over one or two steps (O35, O38 to O40): progress on a full buffer, the repeated
PROCESS.NC, recovery after a corrupted frame, and who writes the status file (R158, R161, R163 to R165). -/

namespace Sys2Proof.Machine

/-! ### The two commands on a buffer whose bytes have values -/

theorem exec_process_of_buf {s : State} {b : Bytes} (h : s.buf = some b) :
    exec .process s = .next (processStep false b s) :=
  exec_processCmd_of_buf false h

theorem exec_processNc_of_buf {s : State} {b : Bytes} (h : s.buf = some b) :
    exec .processNc s = .next (processStep true b s) :=
  exec_processCmd_of_buf true h

/-! ### Waiting and progress -/

/-- On these buffered bytes PROCESS waits for more: there is no header, or a header without its whole frame (R141,
R144). -/
def Waits (c : Config) (b : Bytes) : Prop :=
  b.length < hdrLen ∨ frameLen b ≤ c.cap ∧ b.length < frameLen b

/-- A PROCESS step returns PFT_NONE exactly where it waits (R156). -/
theorem processStep_resClass_eq_none {nc : Bool} {b : Bytes} {s : State} {r : Result}
    (hr : (processStep nc b s).results = s.results ++ [r]) : r.resClass = .none ↔ Waits s.cfg b := by
  obtain ⟨h, e⟩ | ⟨hhdr, hcap, e⟩ | ⟨-, hcap, hlen, e⟩ | ⟨hhdr, -, hlen, -, e⟩ | ⟨hhdr, -, hlen, -, e⟩ :=
    processStep_cases nc b s
  all_goals obtain rfl : _ = r := by simpa [e] using hr
  · exact iff_of_true rfl (.inl h)
  · exact iff_of_false nofun fun hw => by unfold Waits at hw; omega
  · exact iff_of_true rfl (.inr ⟨hcap, hlen⟩)
  · exact iff_of_false nofun fun hw => by unfold Waits at hw; omega
  · have hclass := (dispatchFrame_class s.cfg (b.take (frameLen b))).1
    exact iff_of_false (fun h => by simp [h] at hclass) fun hw => by unfold Waits at hw; omega

/-- A step that does not wait removes bytes, unless PROCESS.NC keeps a CRC-valid frame (R143, R146, R153). -/
theorem processStep_fill_lt {nc : Bool} {b : Bytes} {s : State} {r : Result} (hb : s.buf = some b)
    (hr : (processStep nc b s).results = s.results ++ [r]) (hclass : r.resClass ≠ .none)
    (h : nc = false ∨ ¬ CrcMatches s.cfg b ∨ s.cfg.cap < frameLen b) : (processStep nc b s).fill < s.fill := by
  have hfill := State.buf_length hb
  have hpos := hdrLen_lt_frameLen b
  have hwaits := mt (processStep_resClass_eq_none hr).mpr hclass
  have hhdr0 : 0 < hdrLen := by decide
  obtain ⟨hshort, -⟩ | ⟨hhdr, -, e⟩ | ⟨-, hcap, hlen, -⟩ | ⟨-, -, hlen, -, e⟩ | ⟨-, hcap, hlen, hm, e⟩ :=
    processStep_cases nc b s
  · exact absurd (.inl hshort) hwaits
  · simp only [e, State.result_fill, State.removeFront_fill, State.grab_fill]
    omega
  · exact absurd (.inr ⟨hcap, hlen⟩) hwaits
  · simp only [e, State.result_fill, State.removeFront_fill, State.grab_fill]
    omega
  · obtain rfl : nc = false := h.resolve_right fun h' => h'.elim (· hm) hcap.not_gt
    simp only [e, State.result_fill, finishFrame_false, State.removeFront_fill, State.project_fill, State.grab_fill]
    omega

/-! ### The status file -/

/-- Where the decode dispatch writes a status field, its record is a decoded reply that names it (R152). -/
theorem dispatchDecode_write_record {c : Config} {desc : Descriptor} {dir : WireDir} {k : Kind} {fr : Bytes} {f : Nat}
    {e : StatusEntry} (h : (dispatchDecode c desc dir k fr).write = some (f, e)) :
    (dispatchDecode c desc dir k fr).out.resClass = .reply ∧ (dispatchDecode c desc dir k fr).out.disp = .ok ∧
      (dispatchDecode c desc dir k fr).out.field = some f := by
  obtain ⟨rfl, hfield, rfl, hk⟩ := dispatchDecode_write h
  rw [dispatchDecode_of_ok hk]
  exact ⟨rfl, rfl, hfield⟩

/-- Where the dispatch writes a status field, its record is a decoded reply that names it (R147 to R152). -/
theorem dispatchFrame_write_record {c : Config} {fr : Bytes} {f : Nat} {e : StatusEntry}
    (h : (dispatchFrame c fr).write = some (f, e)) :
    (dispatchFrame c fr).out.resClass = .reply ∧ (dispatchFrame c fr).out.disp = .ok ∧
      (dispatchFrame c fr).out.field = some f := by
  obtain ⟨-, hd⟩ | ⟨dir, op, -, -, ⟨-, hd⟩ | ⟨desc, -, ⟨-, hd⟩ | ⟨k, -, hd⟩⟩⟩ := dispatchFrame_cases c fr
  all_goals rw [hd] at h ⊢
  · cases h
  · cases h
  · cases h
  · exact dispatchDecode_write_record h

/-- A PROCESS step whose record is no decoded reply with a field leaves the status file alone (R152, R164). -/
theorem processStep_status {nc : Bool} {b : Bytes} {s : State} {r : Result}
    (hr : (processStep nc b s).results = s.results ++ [r])
    (hno : r.resClass ≠ .reply ∨ r.disp ≠ .ok ∨ r.field = none) : (processStep nc b s).status = s.status := by
  obtain ⟨-, e⟩ | ⟨-, -, e⟩ | ⟨-, -, -, e⟩ | ⟨-, -, -, -, e⟩ | ⟨-, -, -, -, e⟩ := processStep_cases nc b s
  all_goals rw [e] at hr ⊢
  · rfl
  · simp
  · rfl
  · simp
  · obtain rfl : _ = r := by simpa using hr
    cases hw : (dispatchFrame s.cfg (b.take (frameLen b))).write with
    | none => simp
    | some w =>
      obtain ⟨hclass, hdisp, hfield⟩ := dispatchFrame_write_record hw
      simp [hclass, hdisp, hfield] at hno

/-! ### Writing a second time what is already there -/

/-- A grab of bytes already grabbed changes nothing. -/
theorem State.grab_eq_self {s t : State} {m : Nat} {b : Bytes} (hen : t.grabEn = s.grabEn) (hcap : t.grabCap = s.grabCap)
    (hstore : t.grabStore = (s.grab m b).grabStore) (hlen : t.grabLen = (s.grab m b).grabLen) : t.grab m b = t := by
  rw [State.grab_grabStore, ← hen, ← hcap] at hstore
  rw [State.grab_grabLen, ← hen, ← hcap] at hlen
  unfold State.grab
  split
  · rename_i hon
    rw [if_pos hon] at hstore hlen
    show { t with grabStore := Memory.ofBytes 0 (b.take (min m t.grabCap)), grabLen := min m t.grabCap } = t
    rw [← hstore, ← hlen]
  · rfl

/-- A projection of an entry already projected changes nothing. -/
theorem State.project_eq_self {s t : State} {w : Option (Nat × StatusEntry)} (h : t.status = (s.project w).status) :
    t.project w = t := by
  cases w with
  | none => rfl
  | some w =>
    obtain ⟨f, e⟩ := w
    have hset : t.status.set f (some e) = t.status := by rw [h, State.project_some_status, List.set_set]
    rw [State.project, hset]

/-- After a PROCESS.NC on a CRC-valid frame, the frame is still there and nothing is left to write (R153, R161). -/
theorem processStep_true_again {s : State} {b : Bytes} (w : WholeFrame s b) (hm : CrcMatches s.cfg b) :
    exec .processNc (processStep true b s) =
      .next (returns (processStep true b s) (dispatchFrame s.cfg (b.take (frameLen b))).out) := by
  obtain ⟨hb, hhdr, hcap, hlen⟩ := w
  have e := processStep_frame (nc := true) hhdr hcap hlen hm
  set t := processStep true b s with ht
  have hcfg : t.cfg = s.cfg := by simp [ht]
  have hbuf : t.buf = some b := (State.buf_congr (by simp [e]) (by simp [e])).trans hb
  have hgrab : t.grab (frameLen b) b = t :=
    State.grab_eq_self (s := s) (by simp [e]) (by simp [e]) (by simp [e]) (by simp [e])
  have hproject : t.project (dispatchFrame s.cfg (b.take (frameLen b))).write = t :=
    State.project_eq_self (s := s.grab (frameLen b) b) (by simp [e])
  have hexp : t.expLen = some (frameLen b) := by simp [e]
  rw [exec_processNc_of_buf hbuf, processStep_frame hhdr (hcfg ▸ hcap) hlen (hcfg ▸ hm), hcfg, hgrab, hproject,
    finishFrame_true, ← hexp]
  rfl

/-! ### A corrupted frame in front of a valid one -/

/-- A frame that fits the buffer is whole at its front, whatever is buffered behind (R142 to R145). -/
theorem wholeFrame_append {s : State} {f g : Bytes} (hb : s.buf = some (f ++ g)) (hf : f.length = frameLen f)
    (hhdr : hdrLen ≤ f.length) (hcap : f.length ≤ s.cfg.cap) : WholeFrame s (f ++ g) := by
  have hlen : frameLen (f ++ g) = f.length := (frameLen_append g (Nat.lt_of_lt_of_le (by decide) hhdr)).trans hf.symm
  refine ⟨hb, ?_, hlen ▸ hcap, ?_⟩ <;> rw [List.length_append] <;> omega

/-- Bytes behind a frame do not change whether its checksum matches (R145). -/
theorem crcMatches_append {c : Config} {f : Bytes} (g : Bytes) (hhdr : hdrLen ≤ f.length)
    (hlen : frameLen f ≤ f.length) : CrcMatches c (f ++ g) ↔ CrcMatches c f := by
  have h20 := hdrLen_lt_frameLen f
  rw [CrcMatches, CrcMatches, frameLen_append g (Nat.lt_of_lt_of_le (by decide) hhdr),
    List.take_append_of_le_length (by omega), byteAt_append_left (by omega)]

/-! ### The obligations -/

/-- Settles O35: a full buffer holds a header, and a frame that fits the buffer is whole. -/
theorem fullBufferProgresses : Obligations.FullBufferProgresses := by
  intro nc s b hcap hb hfull
  have hlen := State.buf_length hb
  obtain ⟨r, hr⟩ := processStep_results nc b s
  have hclass : r.resClass ≠ .none := fun h => by
    obtain hshort | ⟨hfits, hmore⟩ := (processStep_resClass_eq_none hr).mp h
    · simp only [hdrLen] at hshort
      omega
    · omega
  exact ⟨_, r, exec_processCmd_of_buf nc hb, hr, hclass, processStep_fill_lt hb hr hclass⟩

/-- Settles O38: only a CRC-valid frame gives one of these classes, and PROCESS.NC leaves it where it is. -/
theorem processNcRepeats : Obligations.ProcessNcRepeats := by
  intro s t b r hb hexec hr hclass
  rw [exec_processNc_of_buf hb] at hexec
  cases hexec
  obtain ⟨-, e⟩ | ⟨-, -, e⟩ | ⟨-, -, -, e⟩ | ⟨-, -, -, -, e⟩ | ⟨hhdr, hcap, hlen, hm, e⟩ := processStep_cases true b s
  all_goals obtain rfl : _ = r := by simpa [e] using hr
  · simp at hclass
  · simp at hclass
  · simp at hclass
  · simp at hclass
  · exact processStep_true_again ⟨hb, hhdr, hcap, hlen⟩ hm

/-- Settles O39: the first step removes the corrupted frame and leaves the valid one alone at the front, on which the
second step is a decoded reply (O32). -/
theorem corruptedThenValid : Obligations.CorruptedThenValid := by
  intro s f1 f2 op desc k v bs n hb hlen1 hlen2 hhdr1 hhdr2 hcap hdirs hm1 hm2 hreply hop hreg hbeh hk hfield
  have w1 := wholeFrame_append hb hlen1 hhdr1 (by omega)
  have hfront : frameLen (f1 ++ f2) = f1.length :=
    (frameLen_append f2 (Nat.lt_of_lt_of_le (by decide) hhdr1)).trans hlen1.symm
  obtain ⟨t, hexec, hbuf, ht⟩ := processDropsBadChecksum false s (f1 ++ f2) w1
    (mt (crcMatches_append f2 hhdr1 hlen1.ge).mp hm1)
  have hcfg : t.cfg = s.cfg := by rw [ht, State.grab_cfg]
  have hres : t.results = s.results ++ [{ resClass := .corrupted, cause := .crc }] := by rw [ht]
  have hstatus : t.status = s.status := by rw [ht, State.grab_status]
  rw [hfront, List.drop_left] at hbuf
  have w2 : WholeFrame t f2 := ⟨hbuf, hhdr2, by rw [hcfg]; omega, hlen2.ge⟩
  rw [← hcfg] at hm2 hop hreg hk
  obtain ⟨u, hu, hwrite, -⟩ := processDecodesAndProjects false t f2 .reply op desc k v bs w2 hm2
    (.inr ⟨rfl, by rw [hcfg, hreply], by rw [hcfg, hreply]; exact hdirs.symm⟩) hop hreg hbeh hk
  obtain ⟨hempty, -⟩ := hu.consumed rfl
  have hresults := congrArg State.results hu.frame
  simp only [hres, List.append_assoc, List.cons_append, List.nil_append] at hresults
  have hfinal : u.status = s.status.set n (some { kind := k, value := v, bytes := bs }) := by
    rw [hwrite n rfl hfield, hstatus]
  have hnone : u.buf = some [] := by rw [hempty, ← hlen2, List.drop_length]
  exact ⟨t, u, _, _, hexec, hu.next, hresults, rfl, rfl, rfl, rfl, rfl, hfield, hfinal, hnone⟩

/-- Settles O40: `processStep_status` for the status file, and PROCESS writes no TX. -/
theorem onlyDecodedRepliesWriteStatus : Obligations.OnlyDecodedRepliesWriteStatus := by
  intro nc s t r hexec hr
  obtain ⟨b, -, rfl⟩ := exec_processCmd_next hexec
  exact ⟨processStep_status hr, by simp⟩

end Sys2Proof.Machine
end

section
/-! SUPPORT. The drain and the delivery of a byte stream (O36, O37; R159, R160): a drain is a run of steps that do not
wait, the runs are deterministic, and a run is not changed by bytes that arrive behind the ones it works on. -/

namespace Sys2Proof.Machine

/-! ### One step that does not wait -/

/-- Where PROCESS does not wait, what it does is fixed by the configuration and the bytes it looks at: a grab, the
status write of the dispatch if there is one, some bytes removed, and a record. Bytes behind them change nothing. -/
theorem processStep_progress {c : Config} {b : Bytes} (h : ¬ Waits c b) :
    ∃ m k w r, m ≤ b.length ∧ 0 < k ∧ k ≤ b.length ∧ r.resClass ≠ .none ∧
      ∀ (x : Bytes) (s : State), s.cfg = c →
        processStep false (b ++ x) s = (((s.grab m (b ++ x)).project w).removeFront k).result r := by
  have hhdr : hdrLen ≤ b.length := Nat.le_of_not_lt fun hlt => h (.inl hlt)
  have h9 : 9 < b.length := Nat.lt_of_lt_of_le (by decide) hhdr
  have hhdr' : ∀ x : Bytes, hdrLen ≤ (b ++ x).length := fun x => by rw [List.length_append]; omega
  have hpos : 0 < frameLen b := Nat.zero_lt_of_lt (hdrLen_lt_frameLen b)
  by_cases hcap : c.cap < frameLen b
  · refine ⟨hdrLen, 1, none, { resClass := .corrupted, cause := .header }, hhdr, Nat.one_pos, Nat.one_le_of_lt h9,
      nofun, ?_⟩
    rintro x s rfl
    rw [processStep_header (hhdr' x) (by rwa [frameLen_append x h9]), State.project_none]
  have hcap := Nat.le_of_not_lt hcap
  have hlen : frameLen b ≤ b.length := Nat.le_of_not_lt fun hlt => h (.inr ⟨hcap, hlt⟩)
  have hlen' : ∀ x : Bytes, frameLen (b ++ x) ≤ (b ++ x).length := fun x => by
    rw [frameLen_append x h9, List.length_append]; omega
  by_cases hm : CrcMatches c b
  · have hclass := (dispatchFrame_class c (b.take (frameLen b))).1
    refine ⟨frameLen b, frameLen b, (dispatchFrame c (b.take (frameLen b))).write,
      (dispatchFrame c (b.take (frameLen b))).out, hlen, hpos, hlen, fun hn => by simp [hn] at hclass, ?_⟩
    rintro x s rfl
    rw [processStep_frame (hhdr' x) (by rwa [frameLen_append x h9]) (hlen' x) ((crcMatches_append x hhdr hlen).mpr hm),
      frameLen_append x h9, List.take_append_of_le_length hlen, finishFrame_false]
  · refine ⟨frameLen b, frameLen b, none, { resClass := .corrupted, cause := .crc }, hlen, hpos, hlen, nofun, ?_⟩
    rintro x s rfl
    rw [processStep_badCrc (hhdr' x) (by rwa [frameLen_append x h9]) (hlen' x)
      (mt (crcMatches_append x hhdr hlen).mp hm), frameLen_append x h9, State.project_none]

/-- Where PROCESS waits it writes at most EXPLEN and adds one PFT_NONE record (R141, R144). -/
theorem processStep_waits {nc : Bool} {b : Bytes} {s : State} (h : Waits s.cfg b) :
    processStep nc b s =
      ({ s with expLen := if b.length < hdrLen then s.expLen else some (frameLen b) } : State).result {} := by
  by_cases hshort : b.length < hdrLen
  · rw [processStep_short hshort, if_pos hshort]
  · obtain ⟨hcap, hlen⟩ := h.resolve_left hshort
    rw [processStep_incomplete (Nat.le_of_not_lt hshort) hcap hlen, if_neg hshort]

/-! ### Runs of such steps -/

/-- PROCESS in `s` does not wait, and answers `t`. -/
def Yields (s t : State) : Prop :=
  ∃ b, s.buf = some b ∧ ¬ Waits s.cfg b ∧ t = processStep false b s

theorem Yields.rightUnique : Relator.RightUnique Yields := by
  rintro s t u ⟨b, hb, -, rfl⟩ ⟨b', hb', -, rfl⟩
  rw [hb] at hb'
  cases hb'
  rfl

/-- Where PROCESS waits, no run goes on. -/
theorem eq_of_yields_of_waits {s t : State} {b : Bytes} (hb : s.buf = some b) (hw : Waits s.cfg b)
    (h : Relation.ReflTransGen Yields s t) : s = t := by
  obtain rfl | ⟨u, ⟨b', hb', hnot, -⟩, -⟩ := h.cases_head
  · rfl
  · rw [hb] at hb'
    cases hb'
    exact absurd hw hnot

/-- Two runs from one state that both end where PROCESS waits end in the same state. -/
theorem yields_end_unique {s t u : State} {b d : Bytes} (ht : Relation.ReflTransGen Yields s t)
    (hu : Relation.ReflTransGen Yields s u) (htb : t.buf = some b) (htw : Waits t.cfg b) (hub : u.buf = some d)
    (huw : Waits u.cfg d) : t = u :=
  (Relation.ReflTransGen.total_of_right_unique Yields.rightUnique ht hu).elim (eq_of_yields_of_waits htb htw)
    fun h => (eq_of_yields_of_waits hub huw h).symm

/-! ### The drain -/

theorem State.lastResult_of_results {s t : State} {r : Result} (h : t.results = s.results ++ [r]) :
    t.lastResult = some r := by
  rw [State.lastResult, h, List.getLast?_concat]

/-- A PROCESS step returns PFT_NONE exactly where it waits, said of the last record. -/
theorem processStep_lastResult {nc : Bool} {b : Bytes} {s : State} :
    (processStep nc b s).lastResult.map Result.resClass = some .none ↔ Waits s.cfg b := by
  obtain ⟨r, hr⟩ := processStep_results nc b s
  rw [State.lastResult_of_results hr, ← processStep_resClass_eq_none hr, Option.map_some, Option.some_inj]

theorem drain_succ {s : State} {b : Bytes} (n : Nat) (hb : s.buf = some b) :
    drain (n + 1) s = if (processStep false b s).lastResult.map Result.resClass = some .none
      then some (processStep false b s) else drain n (processStep false b s) := by
  rw [drain, exec_process_of_buf hb]

/-- A drain with more fuel than buffered bytes runs until PROCESS waits, for each step before removes a byte (R159). -/
theorem drain_runs {n : Nat} {s : State} {b : Bytes} (hb : s.buf = some b) (hn : b.length < n) :
    ∃ t d, Relation.ReflTransGen Yields s t ∧ t.buf = some d ∧ Waits t.cfg d ∧
      drain n s = some (processStep false d t) := by
  induction n generalizing s b with
  | zero => omega
  | succ n ih =>
    rw [drain_succ n hb]
    by_cases hw : Waits s.cfg b
    · exact ⟨s, b, .refl, hb, hw, if_pos (processStep_lastResult.mpr hw)⟩
    · obtain ⟨m, k, w, r, -, hk, hle, -, hstep⟩ := processStep_progress hw
      have hnext : processStep false b s = (((s.grab m b).project w).removeFront k).result r := by
        simpa using hstep [] s rfl
      have hbuf : (processStep false b s).buf = some (b.drop k) := by
        rw [hnext]
        exact State.buf_removeFront k (by simpa using hb)
      obtain ⟨t, d, hrun, hd, hwd, hdrain⟩ := ih hbuf (by rw [List.length_drop]; omega)
      exact ⟨t, d, .head ⟨b, hb, hw, rfl⟩ hrun, hd, hwd, (if_neg (mt processStep_lastResult.mp hw)).trans hdrain⟩

/-! ### A run with more bytes behind the buffered ones -/

/-- `w` is what `s` would be, had the bytes `x` arrived behind its buffered ones: everything that later frames depend
on is equal, and so are the results from number `n` on but for PFT_NONE. `s` is the host's, within the buffer's
capacity; `w` is a state to compare with, whose buffer may hold any number of bytes. -/
structure Ahead (n : Nat) (x : Bytes) (s w : State) : Prop where
  inv     : s.Inv
  cfg     : w.cfg = s.cfg
  buf     : ∃ b, s.buf = some b ∧ w.buf = some (b ++ x)
  sink    : w.grabEn = s.grabEn ∧ w.grabCap = s.grabCap
  grabbed : w.grabStore = s.grabStore ∧ w.grabLen = s.grabLen
  status  : w.status = s.status
  since   : n ≤ s.results.length ∧ n ≤ w.results.length
  frames  : w.frameResults n = s.frameResults n

theorem State.frameResults_result {s t : State} {r : Result} {n : Nat} (h : t.results = s.results ++ [r])
    (hn : n ≤ s.results.length) :
    t.frameResults n = s.frameResults n ++ [r].filter fun r => r.resClass != .none := by
  rw [State.frameResults, h, List.drop_append_of_le_length hn, List.filter_append, State.frameResults]

/-- A PFT_NONE record is not counted (R160). -/
theorem State.frameResults_result_none {s t : State} {r : Result} {n : Nat} (h : t.results = s.results ++ [r])
    (hn : n ≤ s.results.length) (hr : r.resClass = .none) : t.frameResults n = s.frameResults n := by
  rw [State.frameResults_result h hn]
  simp [hr]

/-- What a projection leaves in the status file depends on the status file only (R152). -/
theorem State.project_status_congr {s t : State} (h : t.status = s.status) (p : Option (Nat × StatusEntry)) :
    (t.project p).status = (s.project p).status := by
  cases p with
  | none => exact h
  | some p => exact congrArg (fun l => l.set p.1 (some p.2)) h

section
variable {n : Nat} {x : Bytes} {s w : State}

/-- A state is ahead of itself by the bytes appended to it. -/
theorem ahead_appendBytes (hs : s.Inv) (x : Bytes) (hn : n ≤ s.results.length) : Ahead n x s (s.appendBytes x) := by
  obtain ⟨b, -, -, hb⟩ := hs.bufNormal
  exact ⟨hs, rfl, ⟨b, hb, State.buf_appendBytes x hb⟩, ⟨rfl, rfl⟩, ⟨rfl, rfl⟩, rfl, ⟨hn, hn⟩, rfl⟩

/-- What only moves EXPLEN and adds a PFT_NONE record does not count. -/
theorem Ahead.wait (h : Ahead n x s w) {b : Bytes} (hb : s.buf = some b) (hw : Waits s.cfg b) :
    Ahead n x (processStep false b s) w := by
  have hinv := h.inv.processStep false hb
  rw [processStep_waits hw] at hinv ⊢
  obtain ⟨hn, hn'⟩ := h.since
  exact { h with
    inv := hinv
    since := ⟨by simp; omega, hn'⟩
    frames := h.frames.trans (State.frameResults_result_none rfl hn rfl).symm }

/-- APPEND takes bytes from those to come into the buffer. -/
theorem Ahead.append {a : Bytes} (h : Ahead n (a ++ x) s w) (hfit : s.fill + a.length ≤ s.cfg.cap) {r : Result}
    (hr : r.resClass = .none) : Ahead n x ((s.appendBytes a).result r) w := by
  obtain ⟨b, hb, hwb⟩ := h.buf
  obtain ⟨hn, hn'⟩ := h.since
  exact { h with
    inv := (h.inv.appendBytes hfit).result r
    buf := ⟨b ++ a, State.buf_appendBytes a hb, by rw [hwb, List.append_assoc]⟩
    since := ⟨by simp; omega, hn'⟩
    frames := h.frames.trans (State.frameResults_result_none rfl hn hr).symm }

/-- A step that does not wait does the same with more bytes behind. -/
theorem Ahead.yields {t : State} (h : Ahead n x s w) (ht : Yields s t) : ∃ v, Yields w v ∧ Ahead n x t v := by
  obtain ⟨b, hb, hnot, rfl⟩ := ht
  obtain ⟨b', hb', hwb⟩ := h.buf
  obtain rfl : b = b' := Option.some_inj.mp (hb.symm.trans hb')
  obtain ⟨m, k, p, r, hm, -, hk, hr, hstep⟩ := processStep_progress hnot
  have hs : processStep false b s = (((s.grab m b).project p).removeFront k).result r := by
    simpa using hstep [] s rfl
  have hw := hstep x w h.cfg
  obtain ⟨hn, hn'⟩ := h.since
  obtain ⟨hen, hcap⟩ := h.sink
  obtain ⟨hstore, hlen⟩ := h.grabbed
  have hsr : (processStep false b s).results = s.results ++ [r] := by simp [hs]
  have hwr : (processStep false (b ++ x) w).results = w.results ++ [r] := by simp [hw]
  refine ⟨processStep false (b ++ x) w,
    ⟨b ++ x, hwb, mt (processStep_resClass_eq_none hwr).mpr hr, rfl⟩, ?_⟩
  exact {
    inv := h.inv.processStep false hb
    cfg := by simpa using h.cfg
    buf := by
      refine ⟨b.drop k, ?_, ?_⟩
      · rw [hs]
        exact State.buf_removeFront k (by simpa using hb)
      · rw [hw, ← List.drop_append_of_le_length hk]
        exact State.buf_removeFront k (by simpa using hwb)
    sink := by simpa using h.sink
    grabbed := by
      have htake : (b ++ x).take (min m s.grabCap) = b.take (min m s.grabCap) :=
        List.take_append_of_le_length ((Nat.min_le_left _ _).trans hm)
      simp [hs, hw, hen, hcap, hstore, hlen, htake]
    status := by
      simp only [hs, hw, State.result_status, State.removeFront_status]
      exact State.project_status_congr (by simpa using h.status) p
    since := by
      rw [hsr, hwr, List.length_append, List.length_append]
      omega
    frames := by rw [State.frameResults_result hsr hn, State.frameResults_result hwr hn', h.frames] }

/-- A run of such steps does the same with more bytes behind. -/
theorem Ahead.run {t : State} (h : Ahead n x s w) (ht : Relation.ReflTransGen Yields s t) :
    ∃ v, Relation.ReflTransGen Yields w v ∧ Ahead n x t v := by
  induction ht with
  | refl => exact ⟨w, .refl, h⟩
  | tail _ hlast ih =>
    obtain ⟨v, hv, ha⟩ := ih
    obtain ⟨v', hv', ha'⟩ := ha.yields hlast
    exact ⟨v', hv.tail hv', ha'⟩

end

/-! ### Delivery -/

/-- A drained state: PROCESS waits, and EXPLEN is what it last wrote (R28, R144). -/
def Settled (s : State) : Prop :=
  ∃ b, s.buf = some b ∧ Waits s.cfg b ∧ s.expLen = if b.length < hdrLen then none else some (frameLen b)

/-- A drained state that has the invariant has room in its buffer (R158). -/
theorem Settled.fill_lt {s : State} (h : Settled s) (hs : s.Inv) : s.fill < s.cfg.cap := by
  obtain ⟨b, hb, hw, -⟩ := h
  have hcap := (configOk_iff.mp hs.config).cap.1
  have hlen := State.buf_length hb
  unfold Waits hdrLen at hw
  omega

/-- With fewer bytes than a header EXPLEN is none (R28). -/
theorem State.Inv.expLen_none {s : State} (h : s.Inv) (hfill : s.fill < hdrLen) : s.expLen = none := by
  rw [Option.eq_none_iff_forall_ne_some]
  intro len hlen
  have := (h.expLen len hlen).1
  omega

/-- The step that ends a drain leaves a drained state (R144, R159). -/
theorem settled_processStep {s : State} {b : Bytes} (hs : s.Inv) (hb : s.buf = some b) (hw : Waits s.cfg b) :
    Settled (processStep false b s) := by
  rw [processStep_waits hw]
  refine ⟨b, hb, hw, ?_⟩
  by_cases hshort : b.length < hdrLen
  · simp [hshort, hs.expLen_none (State.buf_length hb ▸ hshort)]
  · simp [hshort]

/-- A state in which PROCESS changes nothing but for its record is drained (R160). -/
theorem settled_of_exec {s : State} (hs : s.Inv) (h : exec .process s = .next (returns s { status := .ok })) :
    Settled s := by
  obtain ⟨b, hb, he⟩ := exec_processCmd_next (nc := false) h
  have hw : Waits s.cfg b :=
    (processStep_resClass_eq_none (nc := false) (r := { status := .ok }) (by rw [← he]; rfl)).mp rfl
  obtain ⟨d, hd, -, hexp⟩ := settled_processStep hs hb hw
  rw [← he] at hd hexp
  obtain rfl : b = d := Option.some_inj.mp (hb.symm.trans hd)
  exact ⟨b, hb, hw, hexp⟩

section
variable {n : Nat} {x : Bytes} {s w : State}

/-- A drain ends drained, and the state it is compared with keeps pace (R159). -/
theorem Ahead.drain_settles (h : Ahead n x s w) :
    ∃ t v, drain (s.fill + 1) s = some t ∧ Relation.ReflTransGen Yields w v ∧ Ahead n x t v ∧ Settled t := by
  obtain ⟨b, hb, -⟩ := h.buf
  obtain ⟨u, d, hrun, hd, hw, hdrain⟩ := drain_runs hb (Nat.lt_succ_of_le (State.buf_length hb).le)
  obtain ⟨v, hv, ha⟩ := h.run hrun
  exact ⟨_, v, hdrain, hv, ha.wait hd hw, settled_processStep ha.inv hd hw⟩

/-- Offering a chunk in a drained state ends with all of it accepted and drained: each round accepts a byte. -/
theorem Ahead.offer_settles {fuel : Nat} {chunk : Bytes} (h : Ahead n (chunk ++ x) s w) (hs : Settled s)
    (hfuel : chunk.length < fuel) :
    ∃ t v, offer fuel chunk s = some t ∧ Relation.ReflTransGen Yields w v ∧ Ahead n x t v ∧ Settled t := by
  induction fuel generalizing chunk s w with
  | zero => omega
  | succ fuel ih =>
    have hroom := hs.fill_lt h.inv
    set a := min chunk.length (s.cfg.cap - s.fill) with ha
    have htake : (chunk.take a).length = a := List.length_take_of_le (Nat.min_le_left _ _)
    have hahead : Ahead n (chunk.take a ++ (chunk.drop a ++ x)) s w := by
      rwa [← List.append_assoc, List.take_append_drop]
    obtain ⟨u, v, hdrain, hv, hu, hsu⟩ := (hahead.append (by omega)
      (r := { value := BitVec.ofNat 32 a, valid := true }) rfl).drain_settles
    have hrest : chunk.drop (((s.appendBytes (chunk.take a)).result
        { value := BitVec.ofNat 32 a, valid := true }).fill - s.fill) = chunk.drop a := by
      rw [State.result_fill, State.appendBytes_fill, htake, Nat.add_sub_cancel_left]
    simp only [offer, exec_append, ← ha, hdrain, hrest]
    by_cases hnil : chunk.drop a = []
    · rw [hnil] at hu
      exact ⟨u, v, if_pos hnil, hv, hu, hsu⟩
    · have hpos : chunk.length ≠ 0 := fun h0 => hnil (by simp [List.length_eq_zero_iff.mp h0])
      obtain ⟨t, v', hoffer, hv', ht, hst⟩ := ih hu hsu (by rw [List.length_drop]; omega)
      exact ⟨t, v', (if_neg hnil).trans hoffer, hv.trans hv', ht, hst⟩

/-- Delivering chunks in a drained state completes, drained, with all their bytes taken in. -/
theorem Ahead.deliver_settles {cs : List Bytes} (h : Ahead n cs.flatten s w) (hs : Settled s) :
    ∃ t v, deliver cs s = some t ∧ Relation.ReflTransGen Yields w v ∧ Ahead n [] t v ∧ Settled t := by
  induction cs generalizing s w with
  | nil => exact ⟨s, w, rfl, .refl, h, hs⟩
  | cons chunk cs ih =>
    obtain ⟨u, v, hoffer, hv, hu, hsu⟩ := Ahead.offer_settles h hs (Nat.lt_succ_self chunk.length)
    obtain ⟨t, v', hdeliver, hv', ht, hst⟩ := ih hu hsu
    exact ⟨t, v', by simp only [deliver, hoffer, hdeliver], hv.trans hv', ht, hst⟩

/-- With nothing to come, a drained state has the buffer of the state it is compared with, and PROCESS waits there. -/
theorem Ahead.waits (h : Ahead n [] s w) (hs : Settled s) :
    ∃ b, s.buf = some b ∧ w.buf = some b ∧ Waits w.cfg b ∧
      s.expLen = if b.length < hdrLen then none else some (frameLen b) := by
  obtain ⟨b, hb, hw, hexp⟩ := hs
  obtain ⟨b', hb', hwb⟩ := h.buf
  obtain rfl : b = b' := Option.some_inj.mp (hb.symm.trans hb')
  exact ⟨b, hb, by rw [hwb, List.append_nil], h.cfg ▸ hw, hexp⟩

end

/-! ### The obligations -/

/-- Settles O36: the drain runs to a step that waits, whose record is PFT_NONE. -/
theorem drainEnds : Obligations.DrainEnds := by
  intro s b hb
  obtain ⟨t, d, -, -, hw, hdrain⟩ := drain_runs hb (Nat.lt_succ_of_le (State.buf_length hb).le)
  exact ⟨_, hdrain, processStep_lastResult.mpr hw⟩

/-- Settles O37: either delivery keeps pace with the one run that the whole byte stream, buffered at once, would have,
and that run ends in one state only (`yields_end_unique`). -/
theorem deliveryIndependentOfChunks : Obligations.DeliveryIndependentOfChunks := by
  intro s cs ds hs hexec hflat
  have hsettled := settled_of_exec hs hexec
  have hahead := ahead_appendBytes hs cs.flatten le_rfl
  obtain ⟨t, v, ht, hv, hat, hst⟩ := hahead.deliver_settles hsettled
  have hahead' : Ahead s.results.length ds.flatten s (s.appendBytes cs.flatten) := by rwa [← hflat]
  obtain ⟨u, v', hu, hv', hau, hsu⟩ := hahead'.deliver_settles hsettled
  obtain ⟨b, htb, hvb, hvw, htexp⟩ := hat.waits hst
  obtain ⟨d, hud, hvd, hvw', huexp⟩ := hau.waits hsu
  obtain rfl := yields_end_unique hv hv' hvb hvw hvd hvw'
  obtain rfl : b = d := Option.some_inj.mp (hvb.symm.trans hvd)
  obtain ⟨hstore, hlen⟩ := hat.grabbed
  obtain ⟨hstore', hlen'⟩ := hau.grabbed
  refine ⟨t, u, ht, hu, hat.frames.symm.trans hau.frames, htb.trans hud.symm, ?fill, htexp.trans huexp.symm,
    hat.status.symm.trans hau.status, ?grab, hlen.symm.trans hlen'⟩
  case fill => rw [← State.buf_length htb, State.buf_length hud]
  case grab => rw [State.grabBytes, State.grabBytes, ← hstore, ← hlen, hstore', hlen']

end Sys2Proof.Machine
end

section
/-! SUPPORT. The decode kernels and the DECODE commands (O13 to O18, O31): the length check, the words the kernels
answer as numbers, and what a command and the dispatch make of an answer (R10, R91 to R93, R151, R180 to R196). -/

namespace Sys2Proof.Machine

/-! ### The length check (R181) -/

section
variable (f : Bytes → DecodeOut)

/-- A kernel that takes one byte answers a LENGTH fault exactly for a payload of another length. -/
theorem lengthFault_iff_of_one (nil : f [] = .fault .length) (one : ∀ a, f [a] ≠ .fault .length)
    (more : ∀ a b p, f (a :: b :: p) = .fault .length) : ∀ p, f p = .fault .length ↔ p.length ≠ 1
  | [] => by simp [nil]
  | [a] => by simp [one]
  | a :: b :: p => by simp [more]

/-- A kernel that takes two bytes answers a LENGTH fault exactly for a payload of another length. -/
theorem lengthFault_iff_of_two (nil : f [] = .fault .length) (one : ∀ a, f [a] = .fault .length)
    (two : ∀ a b, f [a, b] ≠ .fault .length) (more : ∀ a b c p, f (a :: b :: c :: p) = .fault .length) :
    ∀ p, f p = .fault .length ↔ p.length ≠ 2
  | [] => by simp [nil]
  | [a] => by simp [one]
  | [a, b] => by simp [two]
  | a :: b :: c :: p => by simp [more]

end

theorem ok_ne_lengthFault {v : Value} {bs : Bytes} : DecodeOut.ok v bs ≠ .fault .length := nofun

/-- A range check answers no LENGTH fault. -/
theorem rangeCheck_ne_lengthFault {P : Prop} [Decidable P] {v : Value} {bs : Bytes} :
    (if P then DecodeOut.fault .range else .ok v bs) ≠ .fault .length := by
  split <;> nofun

theorem kDecodeUpTo_lengthFault_iff (most : Nat) (p : Bytes) : kDecodeUpTo most p = .fault .length ↔ p.length ≠ 1 :=
  lengthFault_iff_of_one (kDecodeUpTo most) rfl (fun _ => rangeCheck_ne_lengthFault) (fun _ _ _ => rfl) p

theorem kDecodeFreq16_lengthFault_iff (o : WordOrder) (p : Bytes) :
    kDecodeFreq16 o p = .fault .length ↔ p.length ≠ 2 :=
  lengthFault_iff_of_two (kDecodeFreq16 o) rfl (fun _ => rfl) (fun _ _ => ok_ne_lengthFault) (fun _ _ _ _ => rfl) p

theorem kDecodeDateDmy_lengthFault_iff (yearBase : Nat) :
    ∀ p, kDecodeDateDmy yearBase p = .fault .length ↔ p.length ≠ 3
  | [] | [_] | [_, _] => by simp [kDecodeDateDmy]
  | [_, _, _] => iff_of_false rangeCheck_ne_lengthFault (not_not_intro rfl)
  | _ :: _ :: _ :: _ :: _ => by simp [kDecodeDateDmy]

theorem kDecodeDigits_lengthFault_iff (d : Byte) (p : Bytes) :
    kDecodeDigits d p = .fault .length ↔ p.length ≠ d.toNat := by
  unfold kDecodeDigits
  split <;> simp [*]

theorem kDecodeEmpty_lengthFault_iff : ∀ p, kDecodeEmpty p = .fault .length ↔ p.length ≠ 0
  | [] => by simp [kDecodeEmpty]
  | _ :: _ => by simp [kDecodeEmpty]

/-- A kernel answers a LENGTH fault exactly where the payload does not have the kind's declared length (R91, R181). -/
theorem decodeKernel_lengthFault_iff (c : Config) (k : Kind) (d : Byte) (p : Bytes) :
    decodeKernel c k d p = .fault .length ↔ p.length ≠ dlen k d := by
  cases k with
  | temp16 =>
    exact lengthFault_iff_of_two (kDecodeTemp16 c.wordOrder) rfl (fun _ => rfl) (fun _ _ => ok_ne_lengthFault)
      (fun _ _ _ _ => rfl) p
  | temp8 => exact lengthFault_iff_of_one kDecodeTemp8 rfl (fun _ => ok_ne_lengthFault) (fun _ _ _ => rfl) p
  | freq16 => exact kDecodeFreq16_lengthFault_iff c.wordOrder p
  | percent => exact kDecodeUpTo_lengthFault_iff 100 p
  | timeHm =>
    exact lengthFault_iff_of_two kDecodeTimeHm rfl (fun _ => rfl) (fun _ _ => rangeCheck_ne_lengthFault)
      (fun _ _ _ _ => rfl) p
  | dateDmy => exact kDecodeDateDmy_lengthFault_iff c.yearBase p
  | flag => exact kDecodeUpTo_lengthFault_iff 1 p
  | enum => exact kDecodeUpTo_lengthFault_iff d.toNat p
  | digits => exact kDecodeDigits_lengthFault_iff d p
  | alarmClear => exact lengthFault_iff_of_one kDecodeAlarmClear rfl (fun _ => ok_ne_lengthFault) (fun _ _ _ => rfl) p
  | generic16 => exact kDecodeFreq16_lengthFault_iff c.wordOrder p
  | empty => exact kDecodeEmpty_lengthFault_iff p

/-- Settles O18: a LENGTH fault is a wrong length and nothing else, and an answered value is legal
(`decodeKernel_legal`). -/
theorem decodeChecksLengthFirst : Obligations.DecodeChecksLengthFirst := by
  intro c k d p hyear
  refine ⟨(decodeKernel_lengthFault_iff c k d p).mpr, fun hlen => ?_⟩
  cases hk : decodeKernel c k d p with
  | ok v bs => exact .inr ⟨v, bs, rfl, decodeKernel_legal hyear hk⟩
  | fault cause =>
    cases cause with
    | range => exact .inl rfl
    | length => exact absurd hlen ((decodeKernel_lengthFault_iff c k d p).mp hk)

/-! ### The VALUE words of the kernels, as numbers (R10, R92, R93) -/

theorem unword16_eq (o : WordOrder) (b0 b1 : Byte) :
    unword16 o b0 b1 = if o = .le then b0.toNat + 256 * b1.toNat else 256 * b0.toNat + b1.toNat := by
  cases o <;> rfl

theorem unword16_lt (o : WordOrder) (b0 b1 : Byte) : unword16 o b0 b1 < 65536 := by
  have h0 := b0.isLt
  have h1 := b1.isLt
  cases o <;> simp only [unword16] <;> omega

theorem sext16_eq {raw : Nat} (h : raw < 65536) :
    sext16 raw = BitVec.ofInt 32 (if raw < 32768 then (raw : Int) else (raw : Int) - 65536) := by
  have hint : (BitVec.ofNat 16 raw).toInt = if raw < 32768 then (raw : Int) else (raw : Int) - 65536 := by
    rw [BitVec.toInt_eq_toNat_cond, BitVec.toNat_ofNat, Nat.mod_eq_of_lt h]
    split <;> split <;> omega
  exact congrArg (BitVec.ofInt 32) hint

theorem sext8_eq (b : Byte) :
    sext8 b = BitVec.ofInt 32 (if b.toNat < 128 then (b.toNat : Int) else (b.toNat : Int) - 256) := by
  have hint : b.toInt = if b.toNat < 128 then (b.toNat : Int) else (b.toNat : Int) - 256 := by
    rw [BitVec.toInt_eq_toNat_cond]
    split <;> split <;> omega
  exact congrArg (BitVec.ofInt 32) hint

theorem zext16_eq {raw : Nat} (h : raw < 65536) : zext16 raw = BitVec.ofNat 32 raw := by
  rw [zext16, ← BitVec.ofNat_toNat, BitVec.toNat_ofNat, Nat.mod_eq_of_lt h]

theorem zext8_eq (b : Byte) : zext8 b = BitVec.ofNat 32 b.toNat :=
  (BitVec.ofNat_toNat 32 b).symm

/-- The packing of TIME_HM and DATE_DMY on numbers (R93). -/
theorem packFields_eq (y : Nat) (b1 b0 : Byte) :
    packFields y b1 b0 = BitVec.ofNat 32 (y * 65536 + b1.toNat * 256 + b0.toNat) := by
  have h0 := b0.isLt
  have h1 := b1.isLt
  have hlow : (b1 ++ b0).toNat = b1.toNat * 256 + b0.toNat := by
    rw [BitVec.toNat_append, ← Nat.shiftLeft_add_eq_or_of_lt b0.isLt, Nat.shiftLeft_eq]
  apply BitVec.eq_of_toNat_eq
  rw [packFields, BitVec.toNat_append, ← Nat.shiftLeft_add_eq_or_of_lt (b1 ++ b0).isLt, Nat.shiftLeft_eq, hlow,
    BitVec.toNat_ofNat, BitVec.toNat_ofNat]
  omega

/-! ### The DECODE commands (R182) -/

/-- The DECODE command of a kind; the kind parameter is an operand of ENUM and DIGITS only (R182). -/
def decodeCmd (k : Kind) (d : Byte) (p : Bytes) : Instr :=
  match k with
  | .temp16 => .decodeTemp16 p
  | .temp8 => .decodeTemp8 p
  | .freq16 => .decodeFreq16 p
  | .percent => .decodePercent p
  | .timeHm => .decodeTimeHm p
  | .dateDmy => .decodeDateDmy p
  | .flag => .decodeFlag p
  | .enum => .decodeEnum d p
  | .digits => .decodeDigits d p
  | .alarmClear => .decodeAlarmClear p
  | .generic16 => .decodeGeneric16 p
  | .empty => .decodeEmpty p

/-- Every DECODE command runs the kernel of its kind and ends with the kernel's answer (R182). -/
theorem exec_decodeCmd (k : Kind) (d : Byte) (p : Bytes) (s : State) :
    exec (decodeCmd k d p) s = .next (finishDecode k (decodeKernel s.cfg k d p) s) := by
  cases k <;> rfl

section
variable {s : State} {p : Bytes} (k : Kind) (d : Byte)

theorem decodesTo_of_kernel {v : Value} {bs : Bytes} (h : decodeKernel s.cfg k d p = .ok v bs) :
    DecodesTo s (decodeCmd k d p) k d p v bs :=
  ⟨h, by rw [exec_decodeCmd, h, finishDecode, result_eq_returns]⟩

theorem decodeRangeFault_of_kernel (h : decodeKernel s.cfg k d p = .fault .range) :
    DecodeRangeFault s (decodeCmd k d p) k d p :=
  ⟨h, by rw [exec_decodeCmd, h, finishDecode, raise_eq_refuses, causeOf]⟩

/-- A payload of any other than the declared length is refused (R91, R181, R285). -/
theorem decodeLengthFault_of_length (h : p.length ≠ dlen k d) : DecodeLengthFault s (decodeCmd k d p) k d p := by
  have hk := (decodeKernel_lengthFault_iff s.cfg k d p).mpr h
  exact ⟨hk, by rw [exec_decodeCmd, hk, finishDecode, raise_eq_refuses, causeOf]⟩

end

/-! ### The one-byte ranged kernels (R186, R189, R190) -/

theorem kDecodeUpTo_of_le {most : Nat} {b : Byte} (h : b.toNat ≤ most) :
    kDecodeUpTo most [b] = .ok (BitVec.ofNat 32 b.toNat) [] := by
  rw [← zext8_eq]
  exact if_neg (Nat.not_lt_of_le h)

theorem kDecodeUpTo_of_lt {most : Nat} {b : Byte} (h : most < b.toNat) : kDecodeUpTo most [b] = .fault .range :=
  if_pos h

/-! ### The obligations on single kinds -/

/-- Settles O13: the two bytes assemble to a 16-bit number, which the kernels extend by sign or by zeros. -/
theorem decodeSixteenBitKinds : Obligations.DecodeSixteenBitKinds := by
  refine ⟨⟨decode_cmdOf 0x6 0x0 0, decode_cmdOf 0x6 0x2 0, decode_cmdOf 0x6 0xA 0⟩, fun s b0 b1 raw hraw => ?values,
    fun s p hlen => ⟨decodeLengthFault_of_length .temp16 0 hlen, decodeLengthFault_of_length .freq16 0 hlen,
      decodeLengthFault_of_length .generic16 0 hlen⟩⟩
  case values =>
    rw [← unword16_eq] at hraw
    subst hraw
    have hlt := unword16_lt s.cfg.wordOrder b0 b1
    rw [← sext16_eq hlt, ← zext16_eq hlt]
    exact ⟨decodesTo_of_kernel .temp16 0 rfl, decodesTo_of_kernel .freq16 0 rfl, decodesTo_of_kernel .generic16 0 rfl⟩

/-- Settles O14: the kernel extends its byte by the sign. -/
theorem decodeSignedByte : Obligations.DecodeSignedByte := by
  refine ⟨decode_cmdOf 0x6 0x1 0, fun s b => ?_, fun s p hlen => decodeLengthFault_of_length .temp8 0 hlen⟩
  rw [← sext8_eq]
  exact decodesTo_of_kernel .temp8 0 rfl

/-- Settles O15: the three kernels are `kDecodeUpTo` with their bounds. -/
theorem decodeRangedByte : Obligations.DecodeRangedByte := by
  refine ⟨⟨decode_cmdOf 0x6 0x3 0, decode_cmdOf 0x6 0x6 0, fun d _ v h => decode_add_imm 0x6 0x7 d v h⟩,
    fun s b => ⟨?percent, ?percentRange, ?flag, ?flagRange⟩, fun s d b => ⟨?enum, ?enumRange⟩,
    fun s d p hlen => ?length⟩
  case percent => exact fun h => decodesTo_of_kernel .percent 0 (kDecodeUpTo_of_le h)
  case percentRange => exact fun h => decodeRangeFault_of_kernel .percent 0 (kDecodeUpTo_of_lt h)
  case flag => exact fun h => decodesTo_of_kernel .flag 0 (kDecodeUpTo_of_le h)
  case flagRange => exact fun h => decodeRangeFault_of_kernel .flag 0 (kDecodeUpTo_of_lt h)
  case enum => exact fun h => decodesTo_of_kernel .enum d (kDecodeUpTo_of_le h)
  case enumRange => exact fun h => decodeRangeFault_of_kernel .enum d (kDecodeUpTo_of_lt h)
  case length =>
    exact ⟨decodeLengthFault_of_length .percent 0 hlen, decodeLengthFault_of_length .flag 0 hlen,
      decodeLengthFault_of_length .enum d hlen⟩

/-- Settles O16: the legal fields are packed as `packFields_eq` says, and the range check is the rest. -/
theorem decodeTimeAndDate : Obligations.DecodeTimeAndDate := by
  refine ⟨⟨decode_cmdOf 0x6 0x4 0, decode_cmdOf 0x6 0x5 0⟩, fun s h m => ⟨fun hlegal => ?time, fun hr => ?timeRange⟩,
    fun s d m y => ⟨fun hlegal => ?date, fun hr => ?dateRange⟩,
    fun s p => ⟨fun hlen => ?timeLength, fun hlen => ?dateLength⟩⟩
  case time =>
    have hpack : packFields 0 h m = BitVec.ofNat 32 (h.toNat * 256 + m.toNat) := by
      rw [packFields_eq, Nat.zero_mul, Nat.zero_add]
    rw [← hpack]
    exact decodesTo_of_kernel .timeHm 0 (if_neg (by omega))
  case timeRange => exact decodeRangeFault_of_kernel .timeHm 0 (if_pos hr)
  case date =>
    rw [← packFields_eq]
    exact decodesTo_of_kernel .dateDmy 0 (if_neg (by omega))
  case dateRange => exact decodeRangeFault_of_kernel .dateDmy 0 (if_pos hr)
  case timeLength => exact decodeLengthFault_of_length .timeHm 0 hlen
  case dateLength => exact decodeLengthFault_of_length .dateDmy 0 hlen

/-- Settles O17: the three kernels check the length and nothing else. -/
theorem decodePassThrough : Obligations.DecodePassThrough := by
  refine ⟨⟨fun d _ v h => decode_add_imm 0x6 0x8 d v h, decode_cmdOf 0x6 0x9 0, decode_cmdOf 0x6 0xB 0⟩,
    fun s d p => ⟨fun hlen => ?digits, fun hlen => ?digitsLength⟩, fun s b => ?alarmClear, fun s => ?empty,
    fun s p => ⟨fun hlen => ?alarmClearLength, fun hne => ?emptyLength⟩⟩
  case digits => exact decodesTo_of_kernel .digits d (if_pos hlen)
  case digitsLength => exact decodeLengthFault_of_length .digits d hlen
  case alarmClear => exact decodesTo_of_kernel .alarmClear 0 rfl
  case empty => exact decodesTo_of_kernel .empty 0 rfl
  case alarmClearLength => exact decodeLengthFault_of_length .alarmClear 0 hlen
  case emptyLength => exact decodeLengthFault_of_length .empty 0 (mt List.length_eq_zero_iff.mp hne)

/-! ### A decode fault inside PROCESS (R151, R196) -/

/-- A decode that faults is reported with the kernel's cause, and nothing is projected (R151, R152). -/
theorem dispatchDecode_of_fault {c : Config} {desc : Descriptor} {dir : WireDir} {k : Kind} {f : Bytes}
    {cause : CodecFault} (h : decodeKernel c k desc.dparam (framePayload f) = .fault cause) :
    dispatchDecode c desc dir k f =
      { out := { resClass := classOfDir dir, kind := kindCode k, disp := .decodeFault, cause := causeOf cause,
                 frame := some (frameRecord c f) }, write := none } := by
  rw [dispatchDecode, h]

/-- The cause by the fault, spelled as the statement spells it (R282). -/
theorem causeOf_eq (cause : CodecFault) : causeOf cause = if cause = .length then .length else .range := by
  cases cause <;> rfl

/-- Settles O31: the dispatch runs to the decode, whose fault writes no status field. -/
theorem processDecodeFault : Obligations.ProcessDecodeFault := by
  intro nc s b dir op desc k cause w hm hdir hop hreg hbeh hk
  rw [← framePayload_take] at hk
  rw [← classOfDir_eq, ← causeOf_eq]
  exact processesFrame_of_dispatch w hm ((dispatchFrame_decode hdir hop hreg hbeh).trans (dispatchDecode_of_fault hk))

end Sys2Proof.Machine
end

section
/-! SUPPORT. The encode kernels and the ENCODE commands (O19 to O24): the payload bytes as bit fields of VALUE, what a
kernel answers and when, what a command makes of an answer, and the way back through the decode kernels (R10, R92, R93,
R210 to R225). -/

namespace Sys2Proof.Machine

/-! ### The fields of a VALUE word (R10, R93) -/

/-- A number below 256 is the byte made of it (R10). -/
theorem toNat_byteOfNat {n : Nat} (h : n < 256) : (BitVec.ofNat 8 n).toNat = n :=
  (BitVec.toNat_ofNat n 8).trans (Nat.mod_eq_of_lt h)

/-- The three sub-fields of a VALUE word are its digits (R93). -/
theorem toNat_eq_fields (v : Value) :
    v.toNat = valueHigh v * 65536 + (valueByte1 v).toNat * 256 + (valueByte0 v).toNat := by
  have hv := v.isLt
  simp only [valueHigh, valueByte1, valueByte0, BitVec.extractLsb'_toNat, Nat.shiftRight_eq_div_pow]
  omega

/-- A VALUE word given by its digits has them as its sub-fields (R216, R217). -/
theorem fields_eq_of_toNat {v : Value} {y m d : Nat} (h : v.toNat = y * 65536 + m * 256 + d) (hm : m < 256)
    (hd : d < 256) : valueHigh v = y ∧ valueByte1 v = BitVec.ofNat 8 m ∧ valueByte0 v = BitVec.ofNat 8 d := by
  have hv := toNat_eq_fields v
  have h1 := (valueByte1 v).isLt
  have h0 := (valueByte0 v).isLt
  refine ⟨by omega, BitVec.eq_of_toNat_eq ?_, BitVec.eq_of_toNat_eq ?_⟩
  · rw [BitVec.toNat_ofNat]
    omega
  · rw [BitVec.toNat_ofNat]
    omega

/-- Packing the sub-fields of a VALUE word gives the word back (R93). -/
theorem packFields_fields (v : Value) : packFields (valueHigh v) (valueByte1 v) (valueByte0 v) = v := by
  rw [packFields_eq, ← toNat_eq_fields, BitVec.ofNat_toNat, BitVec.setWidth_eq]

/-- The low byte of a VALUE word as a number. -/
theorem valueByte0_toNat (v : Value) : (valueByte0 v).toNat = v.toNat % 256 := by
  have hv := toNat_eq_fields v
  have h0 := (valueByte0 v).isLt
  omega

/-- The second byte of a VALUE word as a number. -/
theorem valueByte1_toNat (v : Value) : (valueByte1 v).toNat = v.toNat / 256 % 256 := by
  have hv := toNat_eq_fields v
  have h1 := (valueByte1 v).isLt
  have h0 := (valueByte0 v).isLt
  omega

/-- The byte of a number that agrees with VALUE in its low 8 bits (R213, R215). -/
theorem ofNat_eq_valueByte0 {v : Value} {n : Nat} (h : n % 256 = v.toNat % 256) : BitVec.ofNat 8 n = valueByte0 v :=
  BitVec.eq_of_toNat_eq (by rw [BitVec.toNat_ofNat, valueByte0_toNat]; exact h)

/-- The 16-bit field of a VALUE word's low half is its two low bytes (R92). -/
theorem word16_low_eq (o : WordOrder) (v : Value) :
    word16 o (v.toNat % 65536)
      = if o = .le then [v.extractLsb' 0 8, v.extractLsb' 8 8] else [v.extractLsb' 8 8, v.extractLsb' 0 8] := by
  have hlow : BitVec.ofNat 8 (v.toNat % 65536 % 256) = v.extractLsb' 0 8 := ofNat_eq_valueByte0 (by omega)
  have hhigh : BitVec.ofNat 8 (v.toNat % 65536 / 256) = v.extractLsb' 8 8 :=
    BitVec.eq_of_toNat_eq (by rw [BitVec.toNat_ofNat]; exact (by omega : _ = _).trans (valueByte1_toNat v).symm)
  cases o
  · rw [word16, hlow, hhigh, if_pos rfl]
  · rw [word16, hlow, hhigh, if_neg nofun]

/-- The signed reading differs from the number by a multiple of `2^32` (R10). -/
theorem sval32_emod (v : Value) :
    (sval32 v % 65536).toNat = v.toNat % 65536 ∧ (sval32 v % 256).toNat = v.toNat % 256 := by
  have hs : sval32 v = if 2 * v.toNat < 2 ^ 32 then (v.toNat : Int) else v.toNat - (2 ^ 32 : Nat) :=
    BitVec.toInt_eq_toNat_cond v
  have hv := v.isLt
  split at hs <;> omega

/-! ### When a kernel answers, and what (R212 to R220)

A VALUE kernel is a range check in front of one payload. -/

/-- DATE_DMY's two checks are one range check (R217). -/
theorem kEncodeDateDmy_eq (yearBase : Nat) (v : Value) :
    kEncodeDateDmy yearBase v =
      if ((valueByte0 v).toNat < 1 ∨ 31 < (valueByte0 v).toNat ∨ (valueByte1 v).toNat < 1 ∨ 12 < (valueByte1 v).toNat) ∨
          valueHigh v < yearBase ∨ yearBase + 255 < valueHigh v then .fault .range
      else .ok [valueByte0 v, valueByte1 v, BitVec.ofNat 8 (valueHigh v - yearBase)] :=
  (ite_or ..).symm

section
variable {o : WordOrder} {v : Value} {most : Nat}

theorem kEncodeTemp16_of_mem (h : -32768 ≤ v.toInt ∧ v.toInt ≤ 32767) :
    kEncodeTemp16 o v = .ok (word16 o (v.toNat % 65536)) := by
  rw [← (sval32_emod v).1]
  exact if_neg (not_or.mpr ⟨not_lt.mpr h.1, not_lt.mpr h.2⟩)

theorem kEncodeTemp8_of_mem (h : -128 ≤ v.toInt ∧ v.toInt ≤ 127) : kEncodeTemp8 v = .ok [valueByte0 v] := by
  rw [← ofNat_eq_valueByte0 (n := (sval32 v % 256).toNat) (by rw [(sval32_emod v).2, Nat.mod_mod])]
  exact if_neg (not_or.mpr ⟨not_lt.mpr h.1, not_lt.mpr h.2⟩)

theorem kEncodeWord_of_le (h : v.toNat ≤ 65535) : kEncodeWord o v = .ok (word16 o (v.toNat % 65536)) := by
  rw [Nat.mod_eq_of_lt (Nat.lt_succ_of_le h)]
  exact if_neg (not_lt.mpr h)

theorem kEncodeUpTo_of_le (h : v.toNat ≤ most) : kEncodeUpTo most v = .ok [valueByte0 v] := by
  rw [← ofNat_eq_valueByte0 rfl]
  exact if_neg (not_lt.mpr h)

end

/-- A range check in front of a payload answers exactly that payload, and only where the check passes. -/
theorem rangeCheck_eq_ok_iff {P : Prop} [Decidable P] {q pl : Bytes} :
    (if P then EncodeOut.fault .range else .ok q) = .ok pl ↔ ¬P ∧ q = pl := by
  split <;> simp [*]

/-! ### The way back through the decode kernels (R92, R93, R225) -/

/-- A 16-bit field is the two bytes of its number (R92). -/
theorem exists_word16 (o : WordOrder) {w : Nat} (h : w < 65536) :
    ∃ b0 b1, word16 o w = [b0, b1] ∧ unword16 o b0 b1 = w := by
  have hlow : (BitVec.ofNat 8 (w % 256)).toNat = w % 256 := toNat_byteOfNat (by omega)
  have hhigh : (BitVec.ofNat 8 (w / 256)).toNat = w / 256 := toNat_byteOfNat (by omega)
  cases o <;> exact ⟨_, _, rfl, by simp only [unword16, hlow, hhigh]; omega⟩

theorem kDecodeTemp16_word16 (o : WordOrder) {w : Nat} (h : w < 65536) :
    kDecodeTemp16 o (word16 o w) = .ok (sext16 w) [] := by
  obtain ⟨b0, b1, hw, hu⟩ := exists_word16 o h
  rw [hw, kDecodeTemp16, hu]

theorem kDecodeFreq16_word16 (o : WordOrder) {w : Nat} (h : w < 65536) :
    kDecodeFreq16 o (word16 o w) = .ok (zext16 w) [] := by
  obtain ⟨b0, b1, hw, hu⟩ := exists_word16 o h
  rw [hw, kDecodeFreq16, hu]

/-- Sign extension restores a word whose signed reading fits 16 bits (R10). -/
theorem sext16_low {v : Value} (h : -32768 ≤ v.toInt ∧ v.toInt ≤ 32767) : sext16 (v.toNat % 65536) = v := by
  have hs := BitVec.toInt_eq_toNat_cond v
  have hv := v.isLt
  rw [sext16_eq (Nat.mod_lt _ (by decide))]
  have hint : (if v.toNat % 65536 < 32768 then ((v.toNat % 65536 : Nat) : Int) else (v.toNat % 65536 : Nat) - 65536)
      = v.toInt := by
    split at hs <;> split <;> omega
  rw [hint, BitVec.ofInt_toInt]

/-- Sign extension restores a word whose signed reading fits 8 bits (R10). -/
theorem sext8_valueByte0 {v : Value} (h : -128 ≤ v.toInt ∧ v.toInt ≤ 127) : sext8 (valueByte0 v) = v := by
  have hs := BitVec.toInt_eq_toNat_cond v
  have hv := v.isLt
  rw [sext8_eq, valueByte0_toNat]
  have hint : (if v.toNat % 256 < 128 then ((v.toNat % 256 : Nat) : Int) else (v.toNat % 256 : Nat) - 256)
      = v.toInt := by
    split at hs <;> split <;> omega
  rw [hint, BitVec.ofInt_toInt]

section
variable {o : WordOrder} {v : Value} {pl : Bytes}

theorem kDecodeTemp16_kEncodeTemp16 (h : kEncodeTemp16 o v = .ok pl) : kDecodeTemp16 o pl = .ok v [] := by
  obtain ⟨hr, rfl⟩ := rangeCheck_eq_ok_iff.mp h
  rw [(sval32_emod v).1, kDecodeTemp16_word16 o (Nat.mod_lt _ (by decide)), sext16_low]
  exact ⟨not_lt.mp (not_or.mp hr).1, not_lt.mp (not_or.mp hr).2⟩

theorem kDecodeTemp8_kEncodeTemp8 (h : kEncodeTemp8 v = .ok pl) : kDecodeTemp8 pl = .ok v [] := by
  obtain ⟨hr, rfl⟩ := rangeCheck_eq_ok_iff.mp h
  rw [ofNat_eq_valueByte0 (by rw [(sval32_emod v).2, Nat.mod_mod]), kDecodeTemp8, sext8_valueByte0]
  exact ⟨not_lt.mp (not_or.mp hr).1, not_lt.mp (not_or.mp hr).2⟩

/-- FREQ16 and GENERIC16 share their two kernels (R185, R193, R214, R222). -/
theorem kDecodeFreq16_kEncodeWord (h : kEncodeWord o v = .ok pl) : kDecodeFreq16 o pl = .ok v [] := by
  obtain ⟨hr, rfl⟩ := rangeCheck_eq_ok_iff.mp h
  have hlt : v.toNat < 65536 := Nat.lt_succ_of_le (not_lt.mp hr)
  rw [uval, kDecodeFreq16_word16 o hlt, zext16_eq hlt, BitVec.ofNat_toNat, BitVec.setWidth_eq]

/-- PERCENT, FLAG and ENUM share their two kernels; the bound fits a byte (R186, R189, R190, R215, R218, R219). -/
theorem kDecodeUpTo_kEncodeUpTo {most : Nat} (hmost : most < 256) (h : kEncodeUpTo most v = .ok pl) :
    kDecodeUpTo most pl = .ok v [] := by
  obtain ⟨hr, rfl⟩ := rangeCheck_eq_ok_iff.mp h
  have hle : v.toNat ≤ most := not_lt.mp hr
  have hbyte : (BitVec.ofNat 8 (uval v)).toNat = v.toNat := toNat_byteOfNat (hle.trans_lt hmost)
  rw [kDecodeUpTo_of_le (hbyte.trans_le hle), hbyte, BitVec.ofNat_toNat, BitVec.setWidth_eq]

theorem kDecodeTimeHm_kEncodeTimeHm (h : kEncodeTimeHm v = .ok pl) : kDecodeTimeHm pl = .ok v [] := by
  obtain ⟨hr, rfl⟩ := rangeCheck_eq_ok_iff.mp h
  obtain ⟨hy, hhm⟩ := not_or.mp hr
  have hpack : packFields 0 (valueByte1 v) (valueByte0 v) = v := by
    rw [← not_not.mp hy, packFields_fields]
  rw [kDecodeTimeHm, if_neg hhm, hpack]

theorem kDecodeDateDmy_kEncodeDateDmy {yearBase : Nat} (h : kEncodeDateDmy yearBase v = .ok pl) :
    kDecodeDateDmy yearBase pl = .ok v [] := by
  rw [kEncodeDateDmy_eq] at h
  obtain ⟨hr, rfl⟩ := rangeCheck_eq_ok_iff.mp h
  obtain ⟨hdm, hy⟩ := not_or.mp hr
  have hoff : (BitVec.ofNat 8 (valueHigh v - yearBase)).toNat = valueHigh v - yearBase :=
    toNat_byteOfNat (by omega)
  have hyear : yearBase + (valueHigh v - yearBase) = valueHigh v := by omega
  rw [kDecodeDateDmy, if_neg hdm, hoff, hyear, packFields_fields]

theorem kDecodeDigits_kEncodeDigits {d : Byte} {bs : Bytes} (h : kEncodeDigits d bs = .ok pl) :
    kDecodeDigits d pl = .ok 0 bs := by
  unfold kEncodeDigits at h
  split at h
  · rename_i hlen
    cases h
    exact if_pos hlen
  · cases h

end

/-- Decoding an encoded value gives the value and the bytes back, kind by kind (R225). -/
theorem decodeKernel_encodeKernel {c : Config} {k : Kind} {d : Byte} {v : Value} {bs pl : Bytes}
    (h : encodeKernel c k d v bs = .ok pl) : decodeKernel c k d pl = .ok (decodedBack k v) (bytesBack k bs) := by
  cases k with
  | temp16 => exact kDecodeTemp16_kEncodeTemp16 h
  | temp8 => exact kDecodeTemp8_kEncodeTemp8 h
  | freq16 => exact kDecodeFreq16_kEncodeWord h
  | percent => exact kDecodeUpTo_kEncodeUpTo (by decide) h
  | timeHm => exact kDecodeTimeHm_kEncodeTimeHm h
  | dateDmy => exact kDecodeDateDmy_kEncodeDateDmy h
  | flag => exact kDecodeUpTo_kEncodeUpTo (by decide) h
  | enum => exact kDecodeUpTo_kEncodeUpTo d.isLt h
  | digits => exact kDecodeDigits_kEncodeDigits h
  | alarmClear =>
    cases h
    rfl
  | generic16 => exact kDecodeFreq16_kEncodeWord h
  | empty =>
    cases h
    rfl

/-- Settles O24: `decodeKernel_encodeKernel`, and WF-RT makes the two kinds of a register's writes one (R98). -/
theorem codecRoundTrip : Obligations.CodecRoundTrip := by
  intro c k d v bs pl h
  refine ⟨encodeKernel_ok_length h, decodeKernel_encodeKernel h, fun desc hmem hc hqw hd k' hrw => ?_⟩
  obtain rfl : k = k' := (configOk_iff.mp hc).roundTrip desc hmem k k' hqw hrw
  rw [hd]
  exact decodeKernel_encodeKernel h

/-! ### The ENCODE commands (R211) -/

/-- The ENCODE command of a kind. Of the kernel's operands it carries those its kind reads (R211). -/
def encodeCmd (k : Kind) (d : Byte) (v : Value) (bs : Bytes) : Instr :=
  match k with
  | .temp16 => .encodeTemp16 v
  | .temp8 => .encodeTemp8 v
  | .freq16 => .encodeFreq16 v
  | .percent => .encodePercent v
  | .timeHm => .encodeTimeHm v
  | .dateDmy => .encodeDateDmy v
  | .flag => .encodeFlag v
  | .enum => .encodeEnum d v
  | .digits => .encodeDigits d bs
  | .alarmClear => .encodeAlarmClear
  | .generic16 => .encodeGeneric16 v
  | .empty => .encodeEmpty

/-- Every ENCODE command runs the kernel of its kind and ends with the kernel's answer; the operands it does not carry
make no difference to the kernel (R211). -/
theorem exec_encodeCmd (k : Kind) (d : Byte) (v : Value) (bs : Bytes) (s : State) :
    exec (encodeCmd k d v bs) s = .next (finishEncode k (encodeKernel s.cfg k d v bs) s) := by
  cases k <;> rfl

section
variable {s : State} {v : Value} {bs : Bytes} (k : Kind) (d : Byte)

theorem encodesTo_of_kernel {pl : Bytes} (h : encodeKernel s.cfg k d v bs = .ok pl) :
    EncodesTo s (encodeCmd k d v bs) k d v bs pl :=
  ⟨h, by rw [exec_encodeCmd, h, finishEncode, result_eq_returns]⟩

theorem encodeRangeFault_of_kernel (h : encodeKernel s.cfg k d v bs = .fault .range) :
    EncodeRangeFault s (encodeCmd k d v bs) k d v bs :=
  ⟨h, by rw [exec_encodeCmd, h, finishEncode, raise_eq_refuses, causeOf]⟩

theorem encodeLengthFault_of_kernel (h : encodeKernel s.cfg k d v bs = .fault .length) :
    EncodeLengthFault s (encodeCmd k d v bs) k d v bs :=
  ⟨h, by rw [exec_encodeCmd, h, finishEncode, raise_eq_refuses, causeOf]⟩

end

/-! ### The obligations on single kinds -/

/-- Settles O19: in range the payload is the low 16 or 8 bits of VALUE, whatever its sign. -/
theorem encodeTemperatures : Obligations.EncodeTemperatures := by
  refine ⟨⟨decode_cmdOf 0x7 0x0 0, decode_cmdOf 0x7 0x1 0⟩,
    fun s v => ⟨fun h => ?temp16, fun h => ?temp16Range, fun h => ?temp8, fun h => ?temp8Range⟩⟩
  case temp16 =>
    rw [← word16_low_eq]
    exact encodesTo_of_kernel .temp16 0 (kEncodeTemp16_of_mem h)
  case temp16Range => exact encodeRangeFault_of_kernel .temp16 0 (if_pos h)
  case temp8 => exact encodesTo_of_kernel .temp8 0 (kEncodeTemp8_of_mem h)
  case temp8Range => exact encodeRangeFault_of_kernel .temp8 0 (if_pos h)

/-- Settles O20: both kernels are `kEncodeWord`. -/
theorem encodeSixteenBitKinds : Obligations.EncodeSixteenBitKinds := by
  refine ⟨⟨decode_cmdOf 0x7 0x2 0, decode_cmdOf 0x7 0xA 0⟩, fun s v => ⟨fun h => ?values, fun h => ?range⟩⟩
  case values =>
    rw [← word16_low_eq]
    exact ⟨encodesTo_of_kernel .freq16 0 (kEncodeWord_of_le h), encodesTo_of_kernel .generic16 0 (kEncodeWord_of_le h)⟩
  case range =>
    exact ⟨encodeRangeFault_of_kernel .freq16 0 (if_pos h), encodeRangeFault_of_kernel .generic16 0 (if_pos h)⟩

/-- Settles O21: the three kernels are `kEncodeUpTo` with their bounds. -/
theorem encodeRangedByte : Obligations.EncodeRangedByte := by
  refine ⟨⟨decode_cmdOf 0x7 0x3 0, decode_cmdOf 0x7 0x6 0, fun d _ v h => decode_add_imm 0x7 0x7 d v h⟩,
    fun s d v => ⟨?percent, ?percentRange, ?flag, ?flagRange, ?enum, ?enumRange⟩⟩
  case percent => exact fun h => encodesTo_of_kernel .percent 0 (kEncodeUpTo_of_le h)
  case percentRange => exact fun h => encodeRangeFault_of_kernel .percent 0 (if_pos h)
  case flag => exact fun h => encodesTo_of_kernel .flag 0 (kEncodeUpTo_of_le h)
  case flagRange => exact fun h => encodeRangeFault_of_kernel .flag 0 (if_pos h)
  case enum => exact fun h => encodesTo_of_kernel .enum d (kEncodeUpTo_of_le h)
  case enumRange => exact fun h => encodeRangeFault_of_kernel .enum d (if_pos h)

/-- Settles O22: the digits of VALUE are its sub-fields (`fields_eq_of_toNat`), which the range checks read. -/
theorem encodeTimeAndDate : Obligations.EncodeTimeAndDate := by
  refine ⟨⟨decode_cmdOf 0x7 0x4 0, decode_cmdOf 0x7 0x5 0⟩, fun s v y m d hv hm hd => ?_⟩
  obtain ⟨hy, h1, h0⟩ := fields_eq_of_toNat hv hm hd
  have hm' : (valueByte1 v).toNat = m := by rw [h1, toNat_byteOfNat hm]
  have hd' : (valueByte0 v).toNat = d := by rw [h0, toNat_byteOfNat hd]
  rw [← h1, ← h0]
  subst hy hm' hd'
  have hdate := kEncodeDateDmy_eq s.cfg.yearBase v
  refine ⟨fun h => ?time, fun h => ?timeRange, fun h => ?date, fun h => ?dateRange⟩
  case time => exact encodesTo_of_kernel .timeHm 0 (if_neg (by omega))
  case timeRange => exact encodeRangeFault_of_kernel .timeHm 0 (if_pos h)
  case date => exact encodesTo_of_kernel .dateDmy 0 (hdate.trans (if_neg (by omega)))
  case dateRange => exact encodeRangeFault_of_kernel .dateDmy 0 (hdate.trans (if_pos (by omega)))

/-- Settles O23: DIGITS checks the number of its bytes, and the kernels of the other two are constant. -/
theorem encodePassThrough : Obligations.EncodePassThrough := by
  refine ⟨⟨fun d _ v h => decode_add_imm 0x7 0x8 d v h, decode_cmdOf 0x7 0x9 0, decode_cmdOf 0x7 0xB 0⟩,
    fun s d v bs => ⟨fun hlen => ?digits, fun hlen => ?digitsLength, ?alarmClear, ?empty⟩⟩
  case digits => exact encodesTo_of_kernel .digits d (if_pos hlen)
  case digitsLength => exact encodeLengthFault_of_kernel .digits d (if_neg hlen)
  case alarmClear => exact encodesTo_of_kernel .alarmClear d rfl
  case empty => exact encodesTo_of_kernel .empty d rfl

end Sys2Proof.Machine
end

section
/-! SUPPORT. SUBMIT (O41 to O43): its words, its checks one after the other, the frame it emits, and what PROCESS makes
of that frame when it comes back (R72, R74, R240 to R242, R247). -/

namespace Sys2Proof.Machine

/-! ### The command words -/

/-- Where the rows of an opcode have SEL 0 and SEL 1 with IMM zero, its other words are illegal (R72, R74). -/
theorem illegal_of_pairRows {opc : BitVec 4} (f g : Bytes → Value → Instr)
    (hrows : ∀ sel imm arg value,
      decodeFields opc.toNat sel imm arg value = decodePair sel imm (f arg value) (g arg value))
    {c : Command} (harg : c.arg.length ≤ maxArgLen) (hopc : opcOf c.cmd = opc) (h0 : c.cmd ≠ cmdOf opc 0 0)
    (h1 : c.cmd ≠ cmdOf opc 1 0) : decode c = .rejected .illegalCmd := by
  have hword (sel : BitVec 4) (hsel : (selOf c.cmd).toNat = sel.toNat) (himm : immOf c.cmd = 0) :
      c.cmd = cmdOf opc sel 0 := by
    rw [← cmdOf_fields c.cmd, hopc, BitVec.eq_of_toNat_eq hsel, himm]
  refine (decode_legal_or_illegal harg).resolve_left fun ⟨i, hi⟩ => ?_
  rw [decode_of_arg c harg, hopc, hrows] at hi
  unfold decodePair at hi
  split at hi
  case h_1 hsel => exact h0 (hword 0 hsel (needZeroImm_instr hi).1)
  case h_2 hsel => exact h1 (hword 1 hsel (needZeroImm_instr hi).1)
  case h_3 => cases hi

/-! ### What the command answers, by the checks -/

section
variable {op : RegOp} {arg : Bytes} {v : Value} {s : State}

theorem exec_submitCmd_of_refuse {code : StatusCode} {cause : Cause}
    (h : submitCheck s.cfg op arg v = .refuse { code := code, cause := cause }) :
    exec (submitCmd op arg v) s = .next (refuses s code cause) := by
  rw [exec_submitCmd, submit, h]
  rfl

theorem exec_submitCmd_of_plan {p : SubmitPlan} (h : submitCheck s.cfg op arg v = .plan p) :
    exec (submitCmd op arg v) s = .next
      (if s.hpAddrValid && s.ctrlAddrValid then
        (s.emitTx (outgoingFrame s op (arg.take 9) p.payload)).result
          (submitResult s.cfg p.kind (outgoingFrame s op (arg.take 9) p.payload))
      else s.raise .addrUnset .none) := by
  rw [exec_submitCmd, submit, h]
  rfl

/-- A SUBMIT that emits a frame has passed its checks, and the frame is the one R242 builds. -/
theorem plan_of_emitted {t : State} {fr : Bytes} (h : exec (submitCmd op arg v) s = .next t)
    (htx : t.tx = s.tx ++ [fr]) :
    ∃ p, submitCheck s.cfg op arg v = .plan p ∧ fr = outgoingFrame s op (arg.take 9) p.payload := by
  rw [exec_submitCmd] at h
  cases h
  obtain ⟨r, -, e⟩ | ⟨p, -, -, e⟩ | ⟨p, hplan, -, e⟩ := submit_cases op arg v s <;> rw [e] at htx
  · simp at htx
  · simp at htx
  · exact ⟨p, hplan, by simpa [eq_comm] using htx⟩

end

/-! ### The descriptor range (R224) -/

/-- The number a value is compared as, spelled as the statements spell it (R93, R224). -/
theorem typedValue_eq (k : Kind) (v : Value) :
    typedValue k v = if k = .temp16 ∨ k = .temp8 then v.toInt else (v.toNat : Int) := by
  cases k <;> rfl

/-- The descriptor range of a write, as the model checks it (R224). -/
theorem rangeHolds_iff {op : RegOp} {desc : Descriptor} {k : Kind} {v : Value} :
    RangeHolds op desc k v ↔ (op = .write → inDescriptorRange desc.range k v = true) := by
  unfold RangeHolds inDescriptorRange
  simp only [← typedValue_eq]
  refine imp_congr_right fun _ => ?_
  obtain hnone | ⟨⟨vmin, vmax⟩, hsome⟩ := desc.range.eq_none_or_eq_some
  · simp [hnone]
  · simp [hsome]

/-- Step 7 passes where the range holds (R241). -/
theorem rangeStep_eq_plan {op : RegOp} {desc : Descriptor} {k : Kind} {v : Value} (pl : Bytes)
    (h : RangeHolds op desc k v) : rangeStep op desc k v pl = .plan { kind := k, payload := pl } := by
  cases op with
  | read => rfl
  | write => exact if_pos (rangeHolds_iff.mp h rfl)

/-- Step 7 refuses where the range fails (R241). -/
theorem rangeStep_eq_refuse {op : RegOp} {desc : Descriptor} {k : Kind} {v : Value} (pl : Bytes)
    (h : ¬ RangeHolds op desc k v) :
    rangeStep op desc k v pl = .refuse { code := .encodeFault, cause := .range } := by
  cases op with
  | read => exact absurd nofun h
  | write => exact if_neg fun hin => h (rangeHolds_iff.mpr fun _ => hin)

/-! ### The checks in their order (R241) -/

section
variable {c : Config} {op : RegOp} {arg : Bytes} {v : Value}

/-- Step 2: an ARG shorter than a register id. -/
theorem submitCheck_short (h : arg.length < 9) :
    submitCheck c op arg v = .refuse { code := .badOperand, cause := .none } :=
  if_pos h

variable (hlen : 9 ≤ arg.length)
include hlen

/-- Step 3: no register with the id. -/
theorem submitCheck_noRegister (h : ∀ desc ∈ c.regTable, desc.regId ≠ arg.take 9) :
    submitCheck c op arg v = .refuse { code := .noRegister, cause := .none } := by
  have hnone : findRegister c (arg.take 9) = none := findIn_none.mpr h
  simp [submitCheck, submitRid, hlen, hnone]

variable {desc : Descriptor} (hreg : TheRegister c (arg.take 9) desc)
include hreg

/-- Step 4: no behaviour for the op. -/
theorem submitCheck_unsupported (h : HasBehaviour desc .query op none) :
    submitCheck c op arg v = .refuse { code := .unsupported, cause := .none } := by
  simp [submitCheck, submitRid, hlen, findRegister_of_theRegister hreg, behaviour_of_hasBehaviour h]

variable {k : Kind} (hbeh : HasBehaviour desc .query op (some k))
include hbeh

/-- A register with a behaviour passes on to steps 5 to 7. -/
theorem submitCheck_eq_encodeStep : submitCheck c op arg v = encodeStep c op desc k (arg.drop 9) v := by
  simp [submitCheck, submitRid, submitTail, hlen, findRegister_of_theRegister hreg, behaviour_of_hasBehaviour hbeh]

/-- Step 5: DIGITS bytes for a kind that takes none. -/
theorem submitCheck_tail (h : arg.drop 9 ≠ []) (hk : k ≠ .digits) :
    submitCheck c op arg v = .refuse { code := .badOperand, cause := .none } := by
  rw [submitCheck_eq_encodeStep hlen hreg hbeh]
  exact if_pos ⟨h, hk⟩

variable (htail : arg.drop 9 = [] ∨ k = .digits)
include htail

/-- Step 6: a fault of the encode kernel, with its cause. -/
theorem submitCheck_fault {cause : CodecFault} (h : encodeKernel c k desc.dparam v (arg.drop 9) = .fault cause) :
    submitCheck c op arg v = .refuse { code := .encodeFault, cause := causeOf cause } := by
  rw [submitCheck_eq_encodeStep hlen hreg hbeh, encodeStep, if_neg (by tauto), h]

variable {pl : Bytes} (henc : encodeKernel c k desc.dparam v (arg.drop 9) = .ok pl)
include henc

/-- An encoded payload passes on to step 7. -/
theorem submitCheck_eq_rangeStep : submitCheck c op arg v = rangeStep op desc k v pl := by
  rw [submitCheck_eq_encodeStep hlen hreg hbeh, encodeStep, if_neg (by tauto), henc]

/-- Step 7: a write outside the descriptor range. -/
theorem submitCheck_outOfRange (h : ¬ RangeHolds op desc k v) :
    submitCheck c op arg v = .refuse { code := .encodeFault, cause := .range } :=
  (submitCheck_eq_rangeStep hlen hreg hbeh htail henc).trans (rangeStep_eq_refuse pl h)

/-- The request itself is right; step 8, the addresses, is left. -/
theorem submitCheck_passes (h : RangeHolds op desc k v) :
    submitCheck c op arg v = .plan { kind := k, payload := pl } :=
  (submitCheck_eq_rangeStep hlen hreg hbeh htail henc).trans (rangeStep_eq_plan pl h)

end

/-- Settles O41: opcode 8 has two rows, and each failing check is a refusal of `submitCheck`, the addresses last. -/
theorem submitCheckOrder : Obligations.SubmitCheckOrder := by
  refine ⟨fun c harg hopc => illegal_of_pairRows (opc := 0x8) .submitRead .submitWrite (fun _ _ _ _ => rfl) harg hopc,
    fun op arg v s => ⟨fun hshort => ?short, fun hlen => ⟨fun hnone => ?noRegister, fun desc hreg =>
      ⟨fun hbeh => ?unsupported, fun k hbeh => ⟨fun htail hk => ?tail, fun htail =>
        ⟨fun cause hfault => ?fault, fun pl henc => ⟨fun hrange => ?range, fun hrange haddr => ?address⟩⟩⟩⟩⟩⟩⟩
  case short => exact exec_submitCmd_of_refuse (submitCheck_short hshort)
  case noRegister => exact exec_submitCmd_of_refuse (submitCheck_noRegister hlen hnone)
  case unsupported => exact exec_submitCmd_of_refuse (submitCheck_unsupported hlen hreg hbeh)
  case tail => exact exec_submitCmd_of_refuse (submitCheck_tail hlen hreg hbeh htail hk)
  case fault =>
    rw [← causeOf_eq]
    exact exec_submitCmd_of_refuse (submitCheck_fault hlen hreg hbeh htail hfault)
  case range => exact exec_submitCmd_of_refuse (submitCheck_outOfRange hlen hreg hbeh htail henc hrange)
  case address =>
    have hunset : ¬ (s.hpAddrValid && s.ctrlAddrValid) = true := by
      obtain h | h := haddr <;> simp [h]
    rw [exec_submitCmd_of_plan (submitCheck_passes hlen hreg hbeh htail henc hrange), if_neg hunset, raise_eq_refuses]

/-! ### The frame (R242) -/

/-- The checksum stamped on a frame is the one of all bytes before it (R132, R135). -/
theorem outgoingFrame_eq_append (s : State) (op : RegOp) (rid payload : Bytes) :
    outgoingFrame s op rid payload =
      outgoingBody s op rid payload ++ [crcOf s.cfg (outgoingBody s op rid payload)] := by
  rw [outgoingFrame, crc8_eq, List.drop_zero, List.take_length]

/-- The bytes before the checksum, spelled as the statement spells them (R80, R242). -/
theorem outgoingBody_eq (s : State) (op : RegOp) (rid payload : Bytes) :
    outgoingBody s op rid payload =
      [s.hpAddr.b0, s.hpAddr.b1, s.hpAddr.b2, s.hpAddr.b3, s.ctrlAddr.b0, s.ctrlAddr.b1, s.ctrlAddr.b2, s.ctrlAddr.b3,
        s.cfg.dirQuery, BitVec.ofNat 8 payload.length, if op = .read then s.cfg.opRead else s.cfg.opWrite]
        ++ rid ++ payload := by
  cases op <;> rfl

/-- Settles O42: the checks pass, both addresses are valid, and the rest of the command is the frame of R242. -/
theorem submitEmitsFrame : Obligations.SubmitEmitsFrame := by
  intro op arg v s desc k pl body fr hlen hreg hbeh htail henc hrange hhp hctrl hbody hfr
  have hpl : pl.length ≤ 255 := by
    rw [encodeKernel_ok_length henc]
    exact Nat.le_of_lt_succ (dlen_lt k desc.dparam)
  have hframe : outgoingFrame s op (arg.take 9) pl = fr := by
    rw [hfr, hbody, ← outgoingBody_eq, outgoingFrame_eq_append]
  refine ⟨hpl, ?_⟩
  rw [exec_submitCmd_of_plan (submitCheck_passes hlen hreg hbeh htail henc hrange), if_pos (by simp [hhp, hctrl]),
    hframe]
  rfl

/-! ### The frame comes back (R247) -/

/-- In a legal configuration the op byte SUBMIT writes names its op (R8, R84). -/
theorem namesOp_opByteOf {c : Config} (hc : LegalConfig c) (op : RegOp) : NamesOp c (opByteOf c op) op := by
  cases op with
  | read => exact .inl ⟨rfl, rfl⟩
  | write => exact .inr ⟨rfl, rfl, hc.ops.symm⟩

/-- A valid outgoing frame alone in a buffer of its configuration is a whole frame (R82, R247). -/
theorem ValidOutgoing.wholeFrame {c : Config} {f : Bytes} (h : ValidOutgoing c f) {s : State} (hcfg : s.cfg = c)
    (hb : s.buf = some f) : WholeFrame s f where
  buf := hb
  header := by
    rw [h.length]
    exact (hdrLen_lt_frameLen f).le
  fits := by
    rw [hcfg, ← h.length]
    exact h.fits
  complete := h.length.ge

/-- The checksum of a valid outgoing frame matches (R135, R145). -/
theorem ValidOutgoing.crcMatches {c : Config} {f : Bytes} (h : ValidOutgoing c f) : CrcMatches c f := by
  rw [crcMatches_iff, ← h.length]
  exact h.stamped.symm

/-- The payload read back from an outgoing frame is the one it was built with (R80, R242). -/
theorem outgoingFrame_payload (s : State) (op : RegOp) {rid payload : Bytes} (hrid : rid.length = 9)
    (hpl : payload.length < 256) :
    ((outgoingFrame s op rid payload).drop 20).take (byteAt (outgoingFrame s op rid payload) 9).toNat = payload := by
  rw [byteAt_outgoingFrame_length, toNat_byteOfNat hpl, outgoingFrame_eq]
  change ((rid ++ _).drop 9).take _ = _
  rw [List.drop_left' hrid, List.take_left]

/-- The record of a query with a known op (R83, R84, R89, R100). -/
theorem frameRecord_query {c : Config} {b : Bytes} {op : RegOp} (hdir : byteAt b 8 = c.dirQuery)
    (hop : NamesOp c (byteAt b 10) op) :
    (frameRecord c (b.take (frameLen b))).direction = some .incomingQuery ∧
      (frameRecord c (b.take (frameLen b))).op = some op := by
  simp [frameRecord, frameRecordAs, wireDir_take_frameLen (dir := .query) (.inl ⟨rfl, hdir⟩),
    wireOp_take_frameLen hop, receivedDirection]

/-- PROCESS on a valid outgoing frame alone in the buffer, with its op, register and decoded payload: a decoded query,
consumed whole, and no status field written (R149 to R153, R165). -/
theorem exec_process_of_validOutgoing {c : Config} {f : Bytes} {op : RegOp} {desc : Descriptor} {k : Kind} {v : Value}
    {bs : Bytes} (h : ValidOutgoing c f) (hop : NamesOp c (byteAt f 10) op)
    (hreg : TheRegister c ((f.drop 11).take 9) desc) (hbeh : HasBehaviour desc .query op (some k))
    (hdec : decodeKernel c k desc.dparam ((f.drop 20).take (byteAt f 9).toNat) = .ok v bs) {s : State}
    (hcfg : s.cfg = c) (hb : s.buf = some f) :
    ∃ t, exec .process s = .next t ∧
      t.results = s.results ++
        [{ resClass := .query, disp := .ok, kind := kindCode k, value := v, bytes := bs, valid := true,
           frame := some (frameRecord c (f.take (frameLen f))) }] ∧
      t.buf = some [] ∧ t.status = s.status := by
  have hwhole := h.wholeFrame hcfg hb
  subst hcfg
  obtain ⟨t, ht, -, hst⟩ := processDecodesAndProjects false s f .query op desc k v bs hwhole h.crcMatches
    (.inl ⟨rfl, h.query⟩) hop hreg hbeh hdec
  have hbuf := (ht.consumed rfl).1
  rw [← h.length, List.drop_length] at hbuf
  exact ⟨t, ht.next, congrArg State.results ht.frame, hbuf, hst (.inl rfl)⟩

/-- Settles O43: the emitted frame is a valid outgoing frame that names SUBMIT's own op and register, so PROCESS decodes
its payload by the query behaviour that encoded it. -/
theorem submittedFrameEchoes : Obligations.SubmittedFrameEchoes := by
  intro op arg v s t u fr hok hexec htx hcfg hbuf
  have hc := configOk_iff.mp hok
  obtain ⟨p, hplan, hfr⟩ := plan_of_emitted hexec htx
  obtain ⟨hrid, -, -, hpl⟩ := submitCheck_plan_fits hc hplan
  obtain ⟨-, desc, hfind, hkind, -, henc, -⟩ := submitCheck_plan.mp hplan
  have hreg := (findRegister_iff hc).mp hfind
  have hbeh := hasBehaviour_of_behaviour hkind
  have hvalid : ValidOutgoing s.cfg fr := hfr ▸ outgoingFrame_valid hc hplan
  have hopFr : NamesOp s.cfg (byteAt fr 10) op := by
    rw [hfr, byteAt_outgoingFrame_op]
    exact namesOp_opByteOf hc op
  have hregFr : TheRegister s.cfg ((fr.drop 11).take 9) desc := by
    rw [hfr, outgoingFrame_regId s op _ hrid]
    exact hreg
  have hdec : decodeKernel s.cfg p.kind desc.dparam ((fr.drop 20).take (byteAt fr 9).toNat) =
      .ok (decodedBack p.kind v) (bytesBack p.kind (arg.drop 9)) := by
    rw [hfr, outgoingFrame_payload s op hrid hpl]
    exact decodeKernel_encodeKernel henc
  obtain ⟨w, hw, hres, hwbuf, hst⟩ := exec_process_of_validOutgoing hvalid hopFr hregFr hbeh hdec hcfg hbuf
  exact ⟨w, _, desc, p.kind, hreg, hbeh, hw, hres, rfl, rfl, rfl, rfl, rfl,
    ⟨_, rfl, frameRecord_query hvalid.query hopFr⟩, hwbuf, hst⟩

end Sys2Proof.Machine
end

section
/-! SUPPORT. The configuration and readout commands (O45 to O49): what a SET_ADDR or SET_GRAB sets, what a readout
command packs into its record, and what each command answers (R255 to R261). -/

namespace Sys2Proof.Machine

/-! ### SET_ADDR (R255, R256) -/

/-- Only four bytes are an address (R255, R256). -/
theorem busAddrOf_eq_none_of_length_ne {arg : Bytes} (h : arg.length ≠ 4) : busAddrOf arg = none := by
  unfold busAddrOf
  split
  case h_1 => exact absurd rfl h
  case h_2 => rfl

section
variable {arg : Bytes} {a : BusAddr} (s : State)

theorem exec_setAddrHp_of_some (h : busAddrOf arg = some a) :
    exec (.setAddrHp arg) s = .next (({ s with hpAddr := a, hpAddrValid := true } : State).result {}) := by
  simp only [exec, execSetAddrHp, h]

theorem exec_setAddrHp_of_none (h : busAddrOf arg = none) :
    exec (.setAddrHp arg) s = .next (s.raise .badOperand .none) := by
  simp only [exec, execSetAddrHp, h]

theorem exec_setAddrCtrl_of_some (h : busAddrOf arg = some a) :
    exec (.setAddrCtrl arg) s = .next (({ s with ctrlAddr := a, ctrlAddrValid := true } : State).result {}) := by
  simp only [exec, execSetAddrCtrl, h]

theorem exec_setAddrCtrl_of_none (h : busAddrOf arg = none) :
    exec (.setAddrCtrl arg) s = .next (s.raise .badOperand .none) := by
  simp only [exec, execSetAddrCtrl, h]

end

/-- Settles O45: opcode 9 has two rows, and an ARG is an address exactly when it has four bytes. -/
theorem setAddrWritesAddress : Obligations.SetAddrWritesAddress := by
  refine ⟨fun a v h => ⟨decode_cmdOf 0x9 0x0 0 a v h, decode_cmdOf 0x9 0x1 0 a v h⟩,
    fun _ => illegal_of_pairRows (opc := 0x9) (fun arg _ => .setAddrHp arg) (fun arg _ => .setAddrCtrl arg)
      fun _ _ _ _ => rfl, ?address, ?refused⟩
  case address =>
    intro a0 a1 a2 a3 s
    have haddr : busAddrOf [a0, a1, a2, a3] = some ⟨a0, a1, a2, a3⟩ := rfl
    exact ⟨exec_setAddrHp_of_some s haddr, exec_setAddrCtrl_of_some s haddr⟩
  case refused =>
    intro arg s hlen
    have hnone := busAddrOf_eq_none_of_length_ne hlen
    rw [exec_setAddrHp_of_none s hnone, exec_setAddrCtrl_of_none s hnone, raise_eq_refuses]
    exact ⟨rfl, rfl⟩

/-! ### SET_GRAB (R257, R258) -/

theorem exec_setGrabOff (s : State) :
    exec .setGrabOff s = .next (({ s with grabEn := false, grabStore := [], grabLen := 0 } : State).result {}) := rfl

theorem exec_setGrabOn_of_le {v : Value} {s : State} (h : v.toNat ≤ s.cfg.gcapMax) :
    exec (.setGrabOn v) s = .next
      (({ s with grabEn := true, grabCap := v.toNat, grabStore := [], grabLen := 0 } : State).result {}) :=
  if_neg (Nat.not_lt_of_le h)

theorem exec_setGrabOn_of_lt {v : Value} {s : State} (h : s.cfg.gcapMax < v.toNat) :
    exec (.setGrabOn v) s = .next (s.raise .badOperand .none) :=
  if_pos h

/-- With GRAB_LEN 0 no grabbed byte is readable, whatever GRAB_STORE holds (R33). -/
theorem State.grabBytes_of_grabLen_zero {s : State} (h : s.grabLen = 0) : s.grabBytes = some [] := by
  rw [State.grabBytes, h, Memory.readBytes_zero]

/-- Settles O46: opcode 0xA has two rows, and both commands leave GRAB_LEN 0; a capacity above GCAP_MAX is refused. -/
theorem setGrabConfiguresSink : Obligations.SetGrabConfiguresSink := by
  refine ⟨fun a v h => ⟨decode_cmdOf 0xA 0x0 0 a v h, decode_cmdOf 0xA 0x1 0 a v h⟩,
    fun _ => illegal_of_pairRows (opc := 0xA) (fun _ _ => .setGrabOff) (fun _ v => .setGrabOn v) fun _ _ _ _ => rfl,
    fun s => ⟨_, exec_setGrabOff s, State.grabBytes_of_grabLen_zero rfl, rfl⟩, ?on, ?refused⟩
  case on =>
    intro v s hcap
    exact ⟨_, exec_setGrabOn_of_le hcap, State.grabBytes_of_grabLen_zero rfl, rfl⟩
  case refused =>
    intro v s hcap
    rw [exec_setGrabOn_of_lt hcap, raise_eq_refuses]

/-! ### READ_STATUS (R259) -/

theorem exec_readStatus_of_lt {i : Byte} {s : State} {e : Option StatusEntry} (hi : i.toNat < s.cfg.nstatus)
    (he : s.status[i.toNat]? = some e) :
    exec (.readStatus i) s = .next (s.result (statusResult i.toNat e)) := by
  simp only [exec, execReadStatus, if_neg (Nat.not_le_of_lt hi), he, Option.join_some]

theorem exec_readStatus_of_le {i : Byte} {s : State} (hi : s.cfg.nstatus ≤ i.toNat) :
    exec (.readStatus i) s = .next (s.raise .badOperand .none) :=
  if_pos hi

/-- Settles O47: opcode 0xB has one row with every IMM legal, and the record is the field's content if there is one. -/
theorem readStatusReturnsField : Obligations.ReadStatusReturnsField := by
  refine ⟨fun i a v h => decode_add_imm 0xB 0x0 i v h,
    illegalSel_of_row (opc := 0xB) (fun imm _ _ => .instr (.readStatus imm)) fun _ _ _ _ => rfl,
    ?unset, ?written, ?refused⟩
  case unset =>
    intro i s hi hunset
    exact exec_readStatus_of_lt hi hunset
  case written =>
    intro i s k v bs hi hwritten
    exact exec_readStatus_of_lt hi hwritten
  case refused =>
    intro i s hi
    rw [exec_readStatus_of_le hi, raise_eq_refuses]

/-! ### READ_GRAB and READ_STATE (R260, R261) -/

/-- The packing of READ_GRAB and READ_STATE on numbers (R260, R261). -/
theorem packHalves_eq (hi lo : Nat) : packHalves hi lo = BitVec.ofNat 32 (hi % 65536 * 65536 + lo % 65536) := by
  apply BitVec.eq_of_toNat_eq
  rw [packHalves, BitVec.toNat_append, ← Nat.shiftLeft_add_eq_or_of_lt (BitVec.ofNat 16 lo).isLt, Nat.shiftLeft_eq,
    BitVec.toNat_ofNat, BitVec.toNat_ofNat, BitVec.toNat_ofNat]
  omega

/-- EXPLEN as a number is 0 for none (R13, R261). -/
theorem expLenNumber_eq {s : State} {e : Nat} (hnone : s.expLen = none → e = 0)
    (hsome : ∀ len, s.expLen = some len → e = len) : expLenNumber s = e := by
  unfold expLenNumber
  cases h : s.expLen with
  | none => exact (hnone h).symm
  | some len => exact (hsome len h).symm

/-- A flag of weight `n` in the configuration byte (R261). -/
theorem mul_toNat_eq_ite (n : Nat) (b : Bool) : n * b.toNat = if b then n else 0 := by
  cases b <;> simp

/-- The configuration byte is the sum of its three flags (R261). -/
theorem configByte_eq (s : State) :
    configByte s = BitVec.ofNat 8 ((if s.hpAddrValid then 1 else 0) + (if s.ctrlAddrValid then 2 else 0)
      + (if s.grabEn then 4 else 0)) := by
  rw [configByte, ← Nat.one_mul s.hpAddrValid.toNat, mul_toNat_eq_ite, mul_toNat_eq_ite, mul_toNat_eq_ite]

theorem exec_readGrab_of_some {s : State} {bs : Bytes} (h : s.grabBytes = some bs) :
    exec .readGrab s = .next
      (s.result { valid := true, value := packHalves s.grabCap s.grabLen, bytes := bs }) := by
  simp only [exec, execReadGrab, h]

theorem exec_readState (s : State) :
    exec .readState s = .next
      (s.result { valid := true, value := packHalves (expLenNumber s) s.fill, bytes := [configByte s] }) := rfl

/-- Settles O48: opcode 0xC has one row, and the record packs the two numbers beside the grabbed bytes. -/
theorem readGrabReturnsPrefix : Obligations.ReadGrabReturnsPrefix := by
  refine ⟨decode_cmdOf 0xC 0x0 0, illegalElsewhere_of_row (opc := 0xC) (fun _ _ => .readGrab) fun _ _ _ _ => rfl, ?_⟩
  intro s bs hgrab
  rw [exec_readGrab_of_some hgrab, packHalves_eq, result_eq_returns]

/-- Settles O49: opcode 0xD has one row, and the record packs EXPLEN and FILL beside the configuration byte. -/
theorem readStateReturnsProgress : Obligations.ReadStateReturnsProgress := by
  refine ⟨decode_cmdOf 0xD 0x0 0, illegalElsewhere_of_row (opc := 0xD) (fun _ _ => .readState) fun _ _ _ _ => rfl, ?_⟩
  intro s e hnone hsome
  rw [exec_readState, expLenNumber_eq hnone hsome, packHalves_eq, configByte_eq, result_eq_returns]

end Sys2Proof.Machine
end

section
/-! SUPPORT. How a command ends (O54, O55; R73, R280, R293): refused with the state as it was, or with an OK record
after its effect. Then a step with no host event and one with an external reset (O2). -/

namespace Sys2Proof.Machine

/-- How a command in `s` ends: `raise` on the state it found, or an OK record on a state `u` in which its effect has
touched neither the port nor the records (R12, R293). -/
inductive Ends (s : State) : State → Prop where
  | refused (code : StatusCode) (cause : Cause) : Ends s (s.raise code cause)
  | answered (u : State) (r : Result) (hin : u.inputs = s.inputs) (hres : u.results = s.results)
      (hok : r.status = .ok) : Ends s (u.result r)

section
variable {s t : State}

/-- Either way the command has left the port and one record has been added (R73, R280). -/
theorem Ends.adds_record (h : Ends s t) : t.inputs = s.inputs.tail ∧ ∃ r, t.results = s.results ++ [r] := by
  cases h with
  | refused code cause => exact ⟨rfl, _, rfl⟩
  | answered u r hin hres => exact ⟨congrArg List.tail hin, r, congrArg (· ++ [r]) hres⟩

/-- A record that is not OK is a refusal's, so it carries STATUS and CAUSE only and is the one change (R293). -/
theorem Ends.changes_nothing (h : Ends s t) {r : Result} (hr : t.results = s.results ++ [r]) (hne : r.status ≠ .ok) :
    r = { status := r.status, cause := r.cause } ∧ t = returns s r := by
  cases h with
  | refused code cause =>
    obtain rfl : ({ status := code, cause := cause } : Result) = r := by simpa using hr
    exact ⟨rfl, rfl⟩
  | answered u q hin hres hok =>
    obtain rfl : q = r := by simpa [hres] using hr
    exact absurd hok hne

/-- A command that refuses exactly under its check `P` ends so if what it does otherwise does. -/
theorem Ends.of_check {P : Prop} [Decidable P] {u : State} {code : StatusCode} {cause : Cause}
    (h : (if P then .next (s.raise code cause) else .next u : Host.Outcome State Fault Refusal) = .next t)
    (hu : Ends s u) : Ends s t := by
  split at h
  · cases h
    exact .refused code cause
  · cases h
    exact hu

end

/-! ### The commands that share an operation -/

theorem finishDecode_ends (k : Kind) (o : DecodeOut) (s : State) : Ends s (finishDecode k o s) := by
  cases o with
  | ok v bs => exact .answered s _ rfl rfl rfl
  | fault cause => exact .refused _ _

theorem finishEncode_ends (k : Kind) (o : EncodeOut) (s : State) : Ends s (finishEncode k o s) := by
  cases o with
  | ok payload => exact .answered s _ rfl rfl rfl
  | fault cause => exact .refused _ _

theorem submit_ends (op : RegOp) (arg : Bytes) (v : Value) (s : State) : Ends s (submit op arg v s) := by
  obtain ⟨r, -, h⟩ | ⟨p, -, -, h⟩ | ⟨p, -, -, h⟩ := submit_cases op arg v s <;> rw [h]
  · exact .refused _ _
  · exact .refused _ _
  · exact .answered _ _ rfl rfl rfl

/-- Every PROCESS record has STATUS OK, a corrupted frame's included (R157). -/
theorem processStep_ends (nc : Bool) (b : Bytes) (s : State) : Ends s (processStep nc b s) := by
  obtain ⟨-, h⟩ | ⟨-, -, h⟩ | ⟨-, -, -, h⟩ | ⟨-, -, -, -, h⟩ | ⟨-, -, -, -, h⟩ := processStep_cases nc b s <;> rw [h]
  · exact .answered s _ rfl rfl rfl
  · exact .answered _ _ (by simp) (by simp) rfl
  · exact .answered _ _ rfl rfl rfl
  · exact .answered _ _ (by simp) (by simp) rfl
  · exact .answered _ _ (by simp) (by simp) (dispatchFrame_class _ _).2.1

theorem statusResult_status (i : Nat) (e : Option StatusEntry) : (statusResult i e).status = .ok := by
  cases e <;> rfl

/-! ### Every command -/

/-- Every command that answers a next state ends so (R293). -/
theorem exec_ends {i : Instr} {s t : State} (h : exec i s = .next t) : Ends s t := by
  cases i with
  | nop | append _ | resetBuf | setGrabOff | readState =>
    cases h
    exact .answered _ _ rfl rfl rfl
  | process =>
    obtain ⟨b, -, rfl⟩ := exec_processCmd_next (nc := false) h
    exact processStep_ends false b s
  | processNc =>
    obtain ⟨b, -, rfl⟩ := exec_processCmd_next (nc := true) h
    exact processStep_ends true b s
  | consume _ | crc8 _ _ | setGrabOn _ => exact .of_check h (.answered _ _ rfl rfl rfl)
  | readStatus _ => exact .of_check h (.answered _ _ rfl rfl (statusResult_status _ _))
  | decodeTemp16 _ | decodeTemp8 _ | decodeFreq16 _ | decodePercent _ | decodeTimeHm _ | decodeDateDmy _
  | decodeFlag _ | decodeEnum _ _ | decodeDigits _ _ | decodeAlarmClear _ | decodeGeneric16 _ | decodeEmpty _ =>
    cases h
    exact finishDecode_ends _ _ s
  | encodeTemp16 _ | encodeTemp8 _ | encodeFreq16 _ | encodePercent _ | encodeTimeHm _ | encodeDateDmy _
  | encodeFlag _ | encodeEnum _ _ | encodeDigits _ _ | encodeAlarmClear | encodeGeneric16 _ | encodeEmpty =>
    cases h
    exact finishEncode_ends _ _ s
  | submitRead _ _ | submitWrite _ _ =>
    cases h
    exact submit_ends _ _ _ s
  | setAddrHp arg =>
    cases ha : busAddrOf arg with
    | none =>
      cases (exec_setAddrHp_of_none s ha).symm.trans h
      exact .refused _ _
    | some a =>
      cases (exec_setAddrHp_of_some s ha).symm.trans h
      exact .answered _ _ rfl rfl rfl
  | setAddrCtrl arg =>
    cases ha : busAddrOf arg with
    | none =>
      cases (exec_setAddrCtrl_of_none s ha).symm.trans h
      exact .refused _ _
    | some a =>
      cases (exec_setAddrCtrl_of_some s ha).symm.trans h
      exact .answered _ _ rfl rfl rfl
  | readGrab =>
    cases hg : s.grabBytes with
    | none =>
      simp only [exec, execReadGrab, hg] at h
      cases h
    | some bs =>
      cases (exec_readGrab_of_some hg).symm.trans h
      exact .answered s _ rfl rfl rfl

/-- A command of the port ends so too, an illegal word by ILLEGAL_CMD (R74, R283). -/
theorem runCommand_ends {c : Command} {s t : State} (h : runCommand exec c s = .next t) : Ends s t := by
  unfold runCommand at h
  split at h
  · exact exec_ends h
  · cases h
    exact .refused _ _
  · cases h

/-! ### No command stops a legal instance -/

/-- The invariant gives every byte a command reads a value, so no command faults (R24, R33; log entry 4). -/
theorem State.Inv.exec_next {s : State} (h : s.Inv) (i : Instr) : ∃ t, exec i s = .next t := by
  by_contra hstop
  obtain ⟨-, ⟨nc, -, hbuf⟩ | ⟨-, hgrab⟩⟩ := exec_stops (not_exists.mp hstop)
  · obtain ⟨b, -, -, hb⟩ := h.bufNormal
    cases hbuf.symm.trans hb
  · obtain ⟨g, -, -, hg⟩ := h.grabNormal
    cases hgrab.symm.trans hg

/-- Nor does a command the port carries, its word legal or not (R70, R74). -/
theorem State.Inv.runCommand_next {s : State} (h : s.Inv) {c : Command} (harg : c.arg.length ≤ maxArgLen) :
    ∃ t, runCommand exec c s = .next t := by
  obtain ⟨i, hi⟩ | hill := decode_legal_or_illegal harg
  · rw [runCommand_of_decode hi]
    exact h.exec_next i
  · exact ⟨s.raise .illegalCmd .none, by simp only [runCommand, hill]⟩

/-- Settles O54: under the invariant the command answers a next state, and whichever way it ends it adds one record. -/
theorem everyCommandReturnsOneResult : Obligations.EveryCommandReturnsOneResult := by
  intro s c rest hs hin harg
  obtain ⟨t, ht⟩ := hs.runCommand_next harg
  obtain ⟨hport, r, hr⟩ := (runCommand_ends ht).adds_record
  exact ⟨t, r, (step_of_command hin).trans ht, hport.trans (congrArg List.tail hin), hr⟩

/-- Settles O55: of the two ways a command ends, only a refusal has a record that is not OK. -/
theorem refusedCommandChangesNothing : Obligations.RefusedCommandChangesNothing :=
  ⟨fun _ _ _ _ h => (exec_ends h).changes_nothing,
    fun _ _ _ _ _ hin h => (runCommand_ends ((step_of_command hin).symm.trans h)).changes_nothing⟩

/-! ### No host event, and an external reset -/

theorem step_of_idle {s : State} (h : s.inputs = []) : step s = .next s := by
  simp only [step, h]

theorem step_of_reset {s : State} {rest : List HostEvent} (h : s.inputs = .reset :: rest) :
    step s = .next (takeReset s) := by
  simp only [step, h]

/-- Settles O2: a step branches on the next host event, and a reset takes itself off the port (log entries 1 and 7). -/
theorem idleAndExternalReset : Obligations.IdleAndExternalReset := by
  refine ⟨fun _ => step_of_idle, fun s rest h => ?reset⟩
  rw [step_of_reset h, takeReset, h, List.tail_cons]

end Sys2Proof.Machine
end

section
/-! SUPPORT. What the spec leaves unspecified stays unobserved (O57; R24, R33, R311, R323): every shared operation keeps
`SameButUnspecified`, for a byte that it brings below FILL or GRAB_LEN is one it writes or one both states share, and
every command reads only bytes below them and addresses whose valid bit is 1. -/

namespace Sys2Proof.Machine

/-- Stores that agree below an index answer the same bytes from index 0 on. -/
theorem Memory.readBytes_congr {m m' : Memory} {n : Nat} (h : ∀ a, a < n → Memory.read m a = Memory.read m' a) :
    Memory.readBytes m 0 n = Memory.readBytes m' 0 n := by
  ext1 bs
  simp only [Memory.readBytes_eq_some, Nat.zero_add]
  exact and_congr_right fun _ => forall₂_congr fun a ha => by rw [h a ha]

theorem SameButUnspecified.refl (s : State) : SameButUnspecified s s := by
  constructor <;> intros <;> rfl

/-! ### What the two states agree on -/

namespace SameButUnspecified

section
variable {s t : State} (h : SameButUnspecified s t)
include h

theorem buf_eq : s.buf = t.buf := by
  rw [State.buf, State.buf, ← h.fill, Memory.readBytes_congr h.buffered]

theorem grabBytes_eq : s.grabBytes = t.grabBytes := by
  rw [State.grabBytes, State.grabBytes, ← h.grabLen, Memory.readBytes_congr h.grabbed]

theorem observe_eq : s.observe = t.observe := by
  simp only [State.observe, h.results, h.tx, h.fill, h.expLen, h.status, h.grabBytes_eq, h.hpValid, h.ctrlValid,
    h.grabEn, h.grabCap]

/-- An external reset leaves nothing of the old stores and addresses (R310, R311). -/
theorem takeReset_eq : takeReset s = takeReset t := by
  simp only [takeReset, h.cfg, h.inputs, h.results]

/-- SUBMIT builds its frame from addresses that are set (R241, R242). -/
theorem outgoingFrame_eq (hp : s.hpAddrValid = true) (ctrl : s.ctrlAddrValid = true) (op : RegOp)
    (rid payload : Bytes) : outgoingFrame s op rid payload = outgoingFrame t op rid payload := by
  simp only [outgoingFrame, outgoingBody, h.cfg, h.hpAddr hp, h.ctrlAddr ctrl]

/-! ### The shared operations keep the relation -/

theorem result {r q : Result} (hr : r = q) : SameButUnspecified (s.result r) (t.result q) :=
  { h with inputs := congrArg List.tail h.inputs, results := congrArg₂ (· ++ [·]) h.results hr }

theorem raise (code : StatusCode) (cause : Cause) : SameButUnspecified (s.raise code cause) (t.raise code cause) :=
  h.result rfl

theorem appendBytes (bs : Bytes) : SameButUnspecified (s.appendBytes bs) (t.appendBytes bs) :=
  { h with
    fill := congrArg (· + bs.length) h.fill
    buffered := fun a (ha : a < s.fill + bs.length) => by
      simp only [State.appendBytes, Memory.read_writeBytes, ← h.fill]
      split
      · rfl
      · exact h.buffered a (by omega) }

theorem removeFront (n : Nat) : SameButUnspecified (s.removeFront n) (t.removeFront n) :=
  { h with
    fill := congrArg (· - n) h.fill
    expLen := rfl
    buffered := fun a (ha : a < s.fill - n) => by
      simp only [State.removeFront, Memory.read_shiftDown]
      exact h.buffered (a + n) (by omega) }

theorem clearBuffer : SameButUnspecified { s with bufStore := [], fill := 0, expLen := none }
    { t with bufStore := [], fill := 0, expLen := none } :=
  { h with buffered := fun _ _ => rfl, fill := rfl, expLen := rfl }

theorem setExpLen (len : Option Nat) : SameButUnspecified { s with expLen := len } { t with expLen := len } :=
  { h with expLen := rfl }

/-- A grab copies its bytes from the buffer content, which both states have. -/
theorem grab (m : Nat) (b : Bytes) : SameButUnspecified (s.grab m b) (t.grab m b) := by
  cases hen : s.grabEn with
  | false => rwa [State.grab_of_off hen, State.grab_of_off (h.grabEn.symm.trans hen)]
  | true =>
    simp only [State.grab, hen, h.grabEn.symm.trans hen, if_true, h.grabCap]
    exact { h with grabEn := rfl, grabCap := rfl, grabbed := fun _ _ => rfl, grabLen := rfl }

theorem setGrab (en : Bool) {c d : Nat} (hcap : c = d) :
    SameButUnspecified { s with grabEn := en, grabCap := c, grabStore := [], grabLen := 0 }
      { t with grabEn := en, grabCap := d, grabStore := [], grabLen := 0 } :=
  { h with grabEn := rfl, grabCap := hcap, grabbed := fun _ _ => rfl, grabLen := rfl }

theorem project (w : Option (Nat × StatusEntry)) : SameButUnspecified (s.project w) (t.project w) := by
  cases w with
  | none => exact h
  | some fe => exact { h with status := congrArg (·.set fe.1 (some fe.2)) h.status }

theorem emitTx (frame : Bytes) : SameButUnspecified (s.emitTx frame) (t.emitTx frame) :=
  { h with tx := congrArg (· ++ [frame]) h.tx }

theorem setHpAddr (a : BusAddr) :
    SameButUnspecified { s with hpAddr := a, hpAddrValid := true } { t with hpAddr := a, hpAddrValid := true } :=
  { h with hpAddr := fun _ => rfl, hpValid := rfl }

theorem setCtrlAddr (a : BusAddr) :
    SameButUnspecified { s with ctrlAddr := a, ctrlAddrValid := true } { t with ctrlAddr := a, ctrlAddrValid := true } :=
  { h with ctrlAddr := fun _ => rfl, ctrlValid := rfl }

theorem finishFrame (nc : Bool) (len : Nat) : SameButUnspecified (finishFrame nc len s) (finishFrame nc len t) := by
  cases nc with
  | false => exact h.removeFront len
  | true => exact h.setExpLen (some len)

/-! ### The commands that share an operation -/

theorem finishDecode (k : Kind) (o : DecodeOut) : SameButUnspecified (finishDecode k o s) (finishDecode k o t) := by
  cases o with
  | ok v bs => exact h.result rfl
  | fault cause => exact h.raise _ _

theorem finishEncode (k : Kind) (o : EncodeOut) : SameButUnspecified (finishEncode k o s) (finishEncode k o t) := by
  cases o with
  | ok payload => exact h.result rfl
  | fault cause => exact h.raise _ _

/-- On one buffer content PROCESS takes the same branch in both states (R155). -/
theorem processStep (nc : Bool) (b : Bytes) : SameButUnspecified (processStep nc b s) (processStep nc b t) := by
  obtain ⟨hb, e⟩ | ⟨hb, hc, e⟩ | ⟨hb, hc, hl, e⟩ | ⟨hb, hc, hl, hm, e⟩ | ⟨hb, hc, hl, hm, e⟩ :=
    processStep_cases nc b s
  · rw [e, processStep_short hb]
    exact h.result rfl
  · rw [e, processStep_header hb (h.cfg ▸ hc)]
    exact ((h.grab _ _).removeFront _).result rfl
  · rw [e, processStep_incomplete hb (h.cfg ▸ hc) hl]
    exact (h.setExpLen _).result rfl
  · rw [e, processStep_badCrc hb (h.cfg ▸ hc) hl (h.cfg ▸ hm)]
    exact ((h.grab _ _).removeFront _).result rfl
  · rw [e, processStep_frame hb (h.cfg ▸ hc) hl (h.cfg ▸ hm), h.cfg]
    exact (((h.grab _ _).project _).finishFrame _ _).result rfl

/-- SUBMIT's checks read the configuration and the valid bits only, and an address not set ends it (R241). -/
theorem submit (op : RegOp) (arg : Bytes) (v : Value) : SameButUnspecified (submit op arg v s) (submit op arg v t) := by
  unfold Machine.submit
  rw [← h.cfg, ← h.hpValid, ← h.ctrlValid]
  cases submitCheck s.cfg op arg v with
  | refuse r => exact h.raise _ _
  | plan p =>
    by_cases hv : (s.hpAddrValid && s.ctrlAddrValid) = true
    · obtain ⟨hp, ctrl⟩ := Bool.and_eq_true_iff.mp hv
      simp only [if_pos hv, h.outgoingFrame_eq hp ctrl]
      exact (h.emitTx _).result rfl
    · simp only [if_neg hv]
      exact h.raise _ _

end

end SameButUnspecified

/-! ### Every command, and a step -/

section
variable {s t : State} (h : SameButUnspecified s t)
include h

/-- A command that refuses under its check `P` agrees where the check and what it does otherwise agree. -/
theorem SameOutcome.of_check {P Q : Prop} [Decidable P] [Decidable Q] {u v : State} {code : StatusCode} {cause : Cause}
    (hPQ : P = Q) (huv : SameButUnspecified u v) :
    SameOutcome (if P then .next (s.raise code cause) else .next u)
      (if Q then .next (t.raise code cause) else .next v) := by
  subst hPQ
  split
  · exact h.raise code cause
  · exact huv

theorem SameButUnspecified.exec_processCmd (nc : Bool) :
    SameOutcome (exec (processCmd nc) s) (exec (processCmd nc) t) := by
  rw [Machine.exec_processCmd, Machine.exec_processCmd, processIn, processIn, h.buf_eq]
  cases t.buf with
  | none => rfl
  | some b => exact h.processStep nc b

theorem SameButUnspecified.exec_decodeCmd (k : Kind) (d : Byte) (p : Bytes) :
    SameOutcome (exec (decodeCmd k d p) s) (exec (decodeCmd k d p) t) := by
  rw [Machine.exec_decodeCmd, Machine.exec_decodeCmd, h.cfg]
  exact h.finishDecode _ _

theorem SameButUnspecified.exec_encodeCmd (k : Kind) (d : Byte) (v : Value) (bs : Bytes) :
    SameOutcome (exec (encodeCmd k d v bs) s) (exec (encodeCmd k d v bs) t) := by
  rw [Machine.exec_encodeCmd, Machine.exec_encodeCmd, h.cfg]
  exact h.finishEncode _ _

/-- A command answers the same record in both states and keeps the relation, or stops for the same reason. -/
theorem SameButUnspecified.exec (i : Instr) : SameOutcome (exec i s) (exec i t) := by
  cases i with
  | nop => exact h.result rfl
  | append arg =>
    rw [exec_append, exec_append, h.cfg, h.fill]
    exact (h.appendBytes _).result rfl
  | process => exact h.exec_processCmd false
  | processNc => exact h.exec_processCmd true
  | consume n =>
    exact .of_check h (by rw [h.fill]) ((h.removeFront _).result (by rw [(h.removeFront _).fill]))
  | resetBuf => exact h.clearBuffer.result rfl
  | crc8 arg v => exact .of_check h rfl (h.result (by rw [h.cfg]))
  | decodeTemp16 p => exact h.exec_decodeCmd .temp16 0 p
  | decodeTemp8 p => exact h.exec_decodeCmd .temp8 0 p
  | decodeFreq16 p => exact h.exec_decodeCmd .freq16 0 p
  | decodePercent p => exact h.exec_decodeCmd .percent 0 p
  | decodeTimeHm p => exact h.exec_decodeCmd .timeHm 0 p
  | decodeDateDmy p => exact h.exec_decodeCmd .dateDmy 0 p
  | decodeFlag p => exact h.exec_decodeCmd .flag 0 p
  | decodeEnum d p => exact h.exec_decodeCmd .enum d p
  | decodeDigits d p => exact h.exec_decodeCmd .digits d p
  | decodeAlarmClear p => exact h.exec_decodeCmd .alarmClear 0 p
  | decodeGeneric16 p => exact h.exec_decodeCmd .generic16 0 p
  | decodeEmpty p => exact h.exec_decodeCmd .empty 0 p
  | encodeTemp16 v => exact h.exec_encodeCmd .temp16 0 v []
  | encodeTemp8 v => exact h.exec_encodeCmd .temp8 0 v []
  | encodeFreq16 v => exact h.exec_encodeCmd .freq16 0 v []
  | encodePercent v => exact h.exec_encodeCmd .percent 0 v []
  | encodeTimeHm v => exact h.exec_encodeCmd .timeHm 0 v []
  | encodeDateDmy v => exact h.exec_encodeCmd .dateDmy 0 v []
  | encodeFlag v => exact h.exec_encodeCmd .flag 0 v []
  | encodeEnum d v => exact h.exec_encodeCmd .enum d v []
  | encodeDigits d bs => exact h.exec_encodeCmd .digits d 0 bs
  | encodeAlarmClear => exact h.exec_encodeCmd .alarmClear 0 0 []
  | encodeGeneric16 v => exact h.exec_encodeCmd .generic16 0 v []
  | encodeEmpty => exact h.exec_encodeCmd .empty 0 0 []
  | submitRead arg v => exact h.submit .read arg v
  | submitWrite arg v => exact h.submit .write arg v
  | setAddrHp arg =>
    cases ha : busAddrOf arg with
    | none =>
      rw [exec_setAddrHp_of_none s ha, exec_setAddrHp_of_none t ha]
      exact h.raise _ _
    | some a =>
      rw [exec_setAddrHp_of_some s ha, exec_setAddrHp_of_some t ha]
      exact (h.setHpAddr a).result rfl
  | setAddrCtrl arg =>
    cases ha : busAddrOf arg with
    | none =>
      rw [exec_setAddrCtrl_of_none s ha, exec_setAddrCtrl_of_none t ha]
      exact h.raise _ _
    | some a =>
      rw [exec_setAddrCtrl_of_some s ha, exec_setAddrCtrl_of_some t ha]
      exact (h.setCtrlAddr a).result rfl
  | setGrabOff => exact (h.setGrab false h.grabCap).result rfl
  | setGrabOn v => exact .of_check h (by rw [h.cfg]) ((h.setGrab true rfl).result rfl)
  | readStatus n => exact .of_check h (by rw [h.cfg]) (h.result (by rw [h.status]))
  | readGrab =>
    simp only [Machine.exec, execReadGrab, h.grabBytes_eq]
    cases t.grabBytes with
    | none => rfl
    | some bs => exact h.result (by rw [h.grabCap, h.grabLen])
  | readState =>
    exact h.result (by
      simp only [expLenNumber, configByte, h.expLen, h.fill, h.hpValid, h.ctrlValid, h.grabEn])

/-- Decoding sees the command only, so both states run the same instruction or refuse alike (R70, R74). -/
theorem SameButUnspecified.runCommand (c : Command) :
    SameOutcome (runCommand Machine.exec c s) (runCommand Machine.exec c t) := by
  unfold Machine.runCommand
  cases decode c with
  | instr i => exact h.exec i
  | rejected why =>
    cases why with
    | illegalCmd => exact h.raise _ _
    | argTooLong => rfl

theorem SameButUnspecified.step : SameOutcome (step s) (step t) := by
  cases hin : s.inputs with
  | nil =>
    rw [step_of_idle hin, step_of_idle (h.inputs ▸ hin)]
    exact h
  | cons event rest =>
    cases event with
    | reset =>
      rw [step_of_reset hin, step_of_reset (h.inputs ▸ hin), h.takeReset_eq]
      exact .refl _
    | command c =>
      rw [step_of_command hin, step_of_command (h.inputs ▸ hin)]
      exact h.runCommand c

end

/-- Settles O57: the relation is kept by every host event, and the observation reads only what it holds equal. -/
theorem unspecifiedIsUnobservable : Obligations.UnspecifiedIsUnobservable :=
  fun _ _ h => ⟨h.step, h.observe_eq⟩

end Sys2Proof.Machine
end
